-- ==== Sys2Proof/Word.lean ====
section
/-! DEFINITION. The plain word types of the crc64 CORE (00_scope.md §4, rules R1 and R2). -/

namespace Sys2Proof

/-- A 64-bit value, bit 0 least significant: the CRC, a TABLE entry, an operand word (R1, W = 64). -/
abbrev Word := BitVec 64

/-- One byte of BUF (R1). -/
abbrev Byte := BitVec 8

/-- The 32-bit command word `cw` (R56). -/
abbrev CmdWord := BitVec 32

end Sys2Proof
end

