-- ==== Sys2Proof/Config.lean ====
section
/-! DEFINITION. What an implementation of CORE fixes (the two OPEN parameters of 00_scope.md §4), and the one
free value of the model. -/

namespace Sys2Proof.Config

/-- The width of a slot field is 4 bits, so there are at most 16 slots (R20, R58). -/
def maxSlots : Nat := 16

/-- The OPEN parameters (00_scope.md §4; 92 D5, D6). Every statement holds for every value of them: they stand in
State, and no step changes them. -/
structure Params where
  /-- N_ACC, the number of accumulator slots. -/
  nAcc : Nat
  /-- BUF_SIZE, the number of bytes of BUF. -/
  bufSize : Nat
  deriving DecidableEq, Repr

/-- The bounds 00_scope.md §4 sets: `1 ≤ N_ACC ≤ 16` and `0 ≤ BUF_SIZE ≤ 2^64`. -/
abbrev Params.Ok (p : Params) : Prop :=
  1 ≤ p.nAcc ∧ p.nAcc ≤ maxSlots ∧ p.bufSize ≤ 2 ^ 64

/-- FREE VALUE (R25, R37; 93 I5 'a draw per byte'): what BUF holds at an address the host has not written since
hardware reset number `epoch`. No body, so nothing can be proved of it. Log entry 3; safe. -/
opaque unwrittenByte (epoch addr : Nat) : Byte

end Sys2Proof.Config
end

