-- ==== Sys2Proof/Syntax.lean ====
section
/-! DEFINITION. The commands of CORE: the triple the host gives to the port, and the six instructions of
spec/opcode_table.json (30_encoding.md rule R60). -/

namespace Sys2Proof

/-- One command as the host presents it: the command word and the two operand words, 160 bits in all (R31, R56). -/
structure Command where
  cw : CmdWord
  x : Word
  y : Word
  deriving DecidableEq, Repr

/-- The six commands. A slot index is a number (R58: 0 to 15, `Instr.wf`). The operand words an instruction does
not use are ignored (R59), so they are no part of it. -/
inductive Instr where
  /-- NEW d: create an accumulator at the seed (R83). -/
  | new (d : Nat)
  /-- NEWU d, X = offset, Y = length: create and fold (R86). -/
  | newu (d : Nat) (off len : Word)
  /-- UPDATE d, X = offset, Y = length: fold into an accumulator (R89). -/
  | update (d : Nat) (off len : Word)
  /-- RESET d: restore the seed (R94). -/
  | reset (d : Nat)
  /-- GETVAL d: read the external value (R98). -/
  | getval (d : Nat)
  /-- COMBINE d, a, b, X = lenB, the raw 64 bits (R118). -/
  | combine (d a b : Nat) (lenB : Word)
  deriving DecidableEq, Repr

end Sys2Proof
end

