-- ==== Sys2Proof/WellFormed.lean ====
section
/-! DEFINITION. Which terms of Instr an encoding exists for: every slot index fits its 4-bit field (R57, R58).
An index from N_ACC to 15 is well formed: such a command decodes and fails with ERR_INDEX when it runs. -/

namespace Sys2Proof

/-- A slot index fits the 4-bit fields D, A and B (R58). -/
def slotFits (i : Nat) : Bool := decide (i < Config.maxSlots)

/-- The instruction has an encoding. The operand words are 64 bits by their type. -/
def Instr.wf : Instr → Bool
  | .new d => slotFits d
  | .newu d _ _ => slotFits d
  | .update d _ _ => slotFits d
  | .reset d => slotFits d
  | .getval d => slotFits d
  | .combine d a b _ => slotFits d && slotFits a && slotFits b

end Sys2Proof
end

