-- ==== Sys2Proof/Decode.lean ====
section
/-! DEFINITION. Decoding a command (30_encoding.md rules R57 to R64), total and rejecting by name; then the encoder
(R65), the opcode table as rows of mask and pattern (R60), and the layout of a command's 160 bits. -/

namespace Sys2Proof

/-- Why a command word is Illegal (R61, R62). The machine reports ERR_ILLEGAL for each alike (R127). -/
inductive Illegal where
  /-- OP is 0x0 or 0x7 to 0xF (R61). -/
  | reservedOp
  /-- cw[7:4] is not 0 (R62). -/
  | res0Set
  /-- cw[31:20] is not 0 (R62). -/
  | res1Set
  /-- cw[19:12] is not 0 outside COMBINE (R62). -/
  | slotFieldsSet
  deriving DecidableEq, Repr

/-- OP = cw[3:0] (R57). -/
def fieldOp (cw : CmdWord) : BitVec 4 := cw.extractLsb' 0 4
/-- RES0 = cw[7:4] (R57). -/
def fieldRes0 (cw : CmdWord) : BitVec 4 := cw.extractLsb' 4 4
/-- D = cw[11:8], an unsigned slot index (R57, R58). -/
def fieldD (cw : CmdWord) : Nat := (cw.extractLsb' 8 4).toNat
/-- A = cw[15:12] (R57, R58). -/
def fieldA (cw : CmdWord) : Nat := (cw.extractLsb' 12 4).toNat
/-- B = cw[19:16] (R57, R58). -/
def fieldB (cw : CmdWord) : Nat := (cw.extractLsb' 16 4).toNat
/-- cw[19:12], the A and B fields together, which R62 wants 0 outside COMBINE. -/
def fieldAB (cw : CmdWord) : BitVec 8 := cw.extractLsb' 12 8
/-- RES1 = cw[31:20] (R57). -/
def fieldRes1 (cw : CmdWord) : BitVec 12 := cw.extractLsb' 20 12

/-- `decode` of R64, line for line; the operand words are taken whole and never make a command illegal (R59, R62). -/
def decode (c : Command) : Except Illegal Instr :=
  if fieldRes0 c.cw ≠ 0 then .error .res0Set
  else if fieldRes1 c.cw ≠ 0 then .error .res1Set
  else if fieldOp c.cw = 0x6 then .ok (.combine (fieldD c.cw) (fieldA c.cw) (fieldB c.cw) c.x)
  else if fieldAB c.cw ≠ 0 then .error .slotFieldsSet
  else if fieldOp c.cw = 0x1 then .ok (.new (fieldD c.cw))
  else if fieldOp c.cw = 0x2 then .ok (.newu (fieldD c.cw) c.x c.y)
  else if fieldOp c.cw = 0x3 then .ok (.update (fieldD c.cw) c.x c.y)
  else if fieldOp c.cw = 0x4 then .ok (.reset (fieldD c.cw))
  else if fieldOp c.cw = 0x5 then .ok (.getval (fieldD c.cw))
  else .error .reservedOp

/-- A slot index as its 4-bit field, in bit 0 upwards of a command word (R58). -/
def slotField (i : Nat) : CmdWord := (BitVec.ofNat 4 i).setWidth 32

/-- The command word `op | D<<8 | A<<12 | B<<16`, its reserved fields 0 (R57, R65). -/
def cmdWord (op : BitVec 4) (d a b : Nat) : CmdWord :=
  op.setWidth 32 ||| slotField d <<< 8 ||| slotField a <<< 12 ||| slotField b <<< 16

/-- The words of an instruction, as the assembler of R65 writes them: 0 in every ignored operand word. -/
def encode : Instr → Command
  | .new d => ⟨cmdWord 0x1 d 0 0, 0, 0⟩
  | .newu d off len => ⟨cmdWord 0x2 d 0 0, off, len⟩
  | .update d off len => ⟨cmdWord 0x3 d 0 0, off, len⟩
  | .reset d => ⟨cmdWord 0x4 d 0 0, 0, 0⟩
  | .getval d => ⟨cmdWord 0x5 d 0 0, 0, 0⟩
  | .combine d a b lenB => ⟨cmdWord 0x6 d a b, lenB, 0⟩

/-- The expansion of the pseudo-instruction `CRC aD, off, len` (R66). -/
def crcPseudo (d : Nat) (off len : Word) : List Instr := [.newu d off len, .getval d]

/-- One row of R60's match and mask table: a command is that instruction iff `cw & mask = pattern`. -/
structure OpcodeRow where
  mnemonic : String
  mask : CmdWord
  pattern : CmdWord
  deriving DecidableEq, Repr

/-- The table of R60. -/
def opcodeRows : List OpcodeRow :=
  [⟨"NEW", 0xFFFFF0FF, 0x00000001⟩, ⟨"NEWU", 0xFFFFF0FF, 0x00000002⟩, ⟨"UPDATE", 0xFFFFF0FF, 0x00000003⟩,
   ⟨"RESET", 0xFFFFF0FF, 0x00000004⟩, ⟨"GETVAL", 0xFFFFF0FF, 0x00000005⟩, ⟨"COMBINE", 0xFFF000FF, 0x00000006⟩]

/-- `cw & mask = pattern` (R60). -/
def OpcodeRow.accepts (r : OpcodeRow) (cw : CmdWord) : Bool := cw &&& r.mask == r.pattern

/-- The mnemonic of an instruction, as the table spells it (R60). -/
def Instr.mnemonic : Instr → String
  | .new _ => "NEW"
  | .newu _ _ _ => "NEWU"
  | .update _ _ _ => "UPDATE"
  | .reset _ => "RESET"
  | .getval _ => "GETVAL"
  | .combine _ _ _ _ => "COMBINE"

/-- A command from its 160 bits: cw is bits 31..0, X bits 95..32, Y bits 159..96 (R56 names them in this order).
DEDUCED, log entry 11: the spec presents the three words at once and gives them no storage order; safe. -/
def Command.ofBits (w : Nat) : Command :=
  ⟨BitVec.ofNat 32 w, BitVec.ofNat 64 (w >>> 32), BitVec.ofNat 64 (w >>> 96)⟩

/-- The command whose low `nbits` bits are those of `w` and whose other bits are 0. -/
def Command.ofTableWord (nbits w : Nat) : Command := Command.ofBits (w % 2 ^ nbits)

/-- What the decoder reads from a row's bits, numbered as spec/opcode_table.json numbers them. -/
def decodeTableWord (nbits w : Nat) : Option Instr :=
  match decode (Command.ofTableWord nbits w) with
  | .ok i => some i
  | .error _ => none

end Sys2Proof
end

