-- ==== Sys2Proof/Machine/State.lean ====
section
/-! DEFINITION. The state of CORE as plain data (10_state.md), the moves the host can make (70_reset_and_hazards.md
rule R150), the reasons a step can stop, and the state right after hardware reset (R37, R146). -/

namespace Sys2Proof.Machine

/-- The completion codes of STATUS.ERR (R27, R136); `State.err` holds the 4-bit code (`ErrCode.code`). -/
inductive ErrCode where
  /-- Code 0: success. -/
  | ok
  /-- Code 1: offset + length exceeds BUF_SIZE (R131). -/
  | errRange
  /-- Code 2: COMBINE with a negative lenB (R132). -/
  | errLength
  /-- Code 3: the command word decodes to Illegal (R127). -/
  | errIllegal
  /-- Code 4: a slot index is N_ACC or more (R128). -/
  | errIndex
  /-- Code 5: a slot read as an accumulator has VALID = 0 (R129). -/
  | errUninit
  /-- Code 6: COMBINE with d = a or d = b (R130). -/
  | errAlias
  deriving DecidableEq, Repr

/-- Why the machine stops. No command does: an error of a command is a code in STATUS.ERR (R126, R138). -/
inductive Fault where
  /-- Raised by the host's turn in `step` when its BUF write takes effect at an address that is not below BUF_SIZE: a move
  R150 says does not exist. Safe: the model stops where the spec gives no behaviour. Log entry 10. -/
  | bufAddress (addr : Nat)
  deriving DecidableEq, Repr

/-- Why the model gives no meaning. -/
inductive Refusal where
  /-- Raised by an arm of `exec` whose instruction has no meaning yet; safe. No arm is so: every instruction of the
  table has its meaning. -/
  | notModelled (mnemonic : String)
  deriving DecidableEq, Repr

/-- The registers the host can read (R30). -/
inductive HostReg where
  /-- Index 0, 32 bits (R26). -/
  | status
  /-- Index 1, 64 bits (R29). -/
  | result
  deriving DecidableEq, Repr

/-- The host's interactions with CORE, complete (R150). -/
inductive HostMove where
  /-- Assert hardware reset (R146). -/
  | hardReset
  /-- Write a byte of BUF through the buffer write port (R152). -/
  | writeBuf (addr : Nat) (v : Byte)
  /-- Give a command to the command port (R31). -/
  | issue (c : Command)
  /-- Read a host register (R30). -/
  | read (r : HostReg)
  deriving DecidableEq, Repr

/-- One line of what the host does next: a move of R150, or its own WAIT (R66), which sends CORE nothing. -/
inductive HostAct where
  /-- Offer a move to CORE. -/
  | move (m : HostMove)
  /-- Wait until STATUS.BUSY = 0 (R66). -/
  | wait
  deriving DecidableEq, Repr

/-- What a register read gives the host back (R150). -/
inductive HostRead where
  | status (v : BitVec 32)
  | result (v : Word)
  deriving DecidableEq, Repr

/-- The agents that take steps (R51, R78, R150). -/
inductive Agent where
  /-- TGEN, the table generator (R78). -/
  | generator
  /-- The command engine, which completes the command in flight (R28). -/
  | engine
  /-- The port, which lets the move it holds take effect (R31, R153). -/
  | port
  /-- The host (R150). -/
  | host
  deriving DecidableEq, Repr

/-- BUF: the bytes the host has written since hardware reset, by address, strictly rising (`Memory.wf`). An address
that is not listed holds no value (R36); what a read of it draws is `State.bufRead`'s. -/
abbrev Memory := List Host.Cell

/-- The state of CORE (R36), with the host's inputs and the schedule as plain data. -/
structure State where
  /-- The OPEN parameters N_ACC and BUF_SIZE (00_scope.md §4). No step changes them. Log entry 2. -/
  cfg : Config.Params
  /-- TABLE (R18). -/
  table : Vector Word 256
  /-- TABLE_READY (R19). -/
  tableReady : Bool
  /-- ACC (R20): places 0 to N_ACC-1 are the slots; the others exist in no machine and nothing reads or writes them.
  Log entry 6. -/
  acc : Vector Word 16
  /-- VALID (R21), by slot. Log entry 6. -/
  valid : Vector Bool 16
  /-- BUF (R25, R41). -/
  buf : Memory
  /-- STATUS.ERR (R26, R27). -/
  err : BitVec 4
  /-- RESULT (R29). -/
  result : Word
  /-- The command in flight (R35, R36). STATUS.BUSY is 1 exactly while there is one (R28, `State.busy`). Log entry 7. -/
  inFlight : Option Command
  /-- The command or BUF write the port holds because it came while it was not enabled (R31, R153, R154). -/
  held : Option HostMove
  /-- MODEL's field: what the host does next, line by line: moves (R150) and WAITs (R66). Log entry 8. -/
  moves : List HostAct
  /-- MODEL's field: what the host has read, newest first (R150). Log entry 8. -/
  seen : List HostRead
  /-- MODEL's field: the agents of the coming steps; when it is empty, `State.agent` gives the order. Log entry 8. -/
  turns : List Agent
  /-- MODEL's field: the number of hardware resets before this one, which indexes the free draws of unwritten BUF
  bytes. Log entry 3. -/
  epoch : Nat
  deriving DecidableEq, Repr

/-- Right after hardware reset, before any step of any agent (R37, R146). The rule gives TABLE_READY, VALID, BUSY, ERR,
RESULT and the command in flight. DESIGN CHOICE: TABLE and ACC, which R37 leaves unspecified, are 0 (log entries 4, 5);
N_ACC = 4 and BUF_SIZE = 64 (log entry 2); the model's own fields (log entries 3, 8); the port holds nothing (log entry 9). -/
def State.reset : State where
  cfg := ⟨4, 64⟩
  table := Vector.replicate 256 0
  tableReady := false
  acc := Vector.replicate 16 0
  valid := Vector.replicate 16 false
  buf := []
  err := 0
  result := 0
  inFlight := none
  held := none
  moves := []
  seen := []
  turns := []
  epoch := 0

end Sys2Proof.Machine
end

