-- ==== Sys2Proof/Machine/Gf2.lean ====
section
/-! DEFINITION. The constants of the CRC (10_state.md rules R16, R17) and the GF(2) matrix primitives of COMBINE
(42_combine.md rules R106 to R114). -/

namespace Sys2Proof.Machine

/-- POLY (R16). PRESUMED: the number is from general knowledge (92 D2, 93 G1); it reproduces the source's three
vectors. Log entry 1; unsafe. -/
def poly : Word := 0xC96C5795D7870F42

/-- ALL_ONES (R17). -/
def allOnes : Word := 0xFFFFFFFFFFFFFFFF

/-- One bit of reflected division: shift right, XOR POLY if bit 0 was set (R107; one iteration of R76). -/
def shift1 (v : Word) : Word := if v.getLsbD 0 then (v >>> 1) ^^^ poly else v >>> 1

/-- The XOR of bits 0 to n-1 of `v`. -/
def xorBits : Nat → Word → Bool
  | 0, _ => false
  | n + 1, v => v.getLsbD n ^^ xorBits n v

/-- `parity(v)`: the XOR of the 64 bits (R2). -/
def parity (v : Word) : Bool := xorBits 64 v

/-- A linear map of 64-bit vectors: row `M[i]` is the mask of the input bits that contribute to output bit i (R106). -/
abbrev Matrix64 := Vector Word 64

/-- `apply(M, v)`: output bit i is `parity(M[i] & v)` (R106, R108). -/
def applyMatrix (M : Matrix64) (v : Word) : Word := BitVec.ofFnLE fun i : Fin 64 => parity (M[i] &&& v)

/-- The XOR of the rows `B[j]`, from row number `j` on, that the mask selects (R109). -/
def xorSelected : Nat → List Word → Word → Word
  | _, [], _ => 0
  | j, row :: rows, mask =>
    if mask.getLsbD j then row ^^^ xorSelected (j + 1) rows mask else xorSelected (j + 1) rows mask

/-- `mul(A, B)`, first B, then A: row i is the XOR of the rows of B that A[i] selects (R109). -/
def mulMatrix (A B : Matrix64) : Matrix64 := A.map fun row => xorSelected 0 B.toList row

/-- `sq(M) = mul(M, M)` (R110). -/
def sqMatrix (M : Matrix64) : Matrix64 := mulMatrix M M

/-- S, the one-bit operator: row i has bit i+1 (for i < 63), and bit 0 where POLY[i] = 1 (R107). -/
def matrixS : Matrix64 :=
  Vector.ofFn fun i : Fin 64 =>
    (if i.val < 63 then 1#64 <<< (i.val + 1) else 0) ||| (if poly.getLsbD i.val then 1 else 0)

/-- Z, the zero-byte operator: `sq(sq(sq(S)))` (R113). -/
def matrixZ : Matrix64 := sqMatrix (sqMatrix (sqMatrix matrixS))

/-- The identity, `Z^0` (R114): row i has bit i alone. -/
def matrixOne : Matrix64 := Vector.ofFn fun i : Fin 64 => 1#64 <<< i.val

/-- `M^n` (R114). -/
def powMatrix (M : Matrix64) : Nat → Matrix64
  | 0 => matrixOne
  | n + 1 => mulMatrix M (powMatrix M n)

end Sys2Proof.Machine
end

