-- ==== Sys2Proof/Machine/Flags.lean ====
section
/-! DEFINITION. The STATUS register and the error codes (10_state.md rules R26 to R28, 60_exceptions.md rule R136).
CORE has no other flag (R33). -/

namespace Sys2Proof.Machine

/-- The 4-bit code of STATUS.ERR (R27, R136). -/
def ErrCode.code : ErrCode → BitVec 4
  | .ok => 0
  | .errRange => 1
  | .errLength => 2
  | .errIllegal => 3
  | .errIndex => 4
  | .errUninit => 5
  | .errAlias => 6

/-- STATUS.BUSY: 1 from acceptance to completion, that is while a command is in flight (R28). -/
def State.busy (s : State) : Bool := s.inFlight.isSome

/-- STATUS as the host reads it: BUSY bit 0, TABLE_READY bit 1, ERR bits 7:4, every other bit hardwired 0 (R26). -/
def State.statusWord (s : State) : BitVec 32 :=
  (BitVec.ofBool s.busy).setWidth 32 ||| (BitVec.ofBool s.tableReady).setWidth 32 <<< 1 |||
    s.err.setWidth 32 <<< 4

/-- The value a read of a host register gives (R26, R29, R30). -/
def State.readReg (s : State) : HostReg → HostRead
  | .status => .status s.statusWord
  | .result => .result s.result

/-- The host register indices of R30. -/
def HostReg.index : HostReg → Nat
  | .status => 0
  | .result => 1

end Sys2Proof.Machine
end

