-- ==== Sys2Proof/Machine/Operands.lean ====
section
/-! DEFINITION. The operand forms (30_encoding.md rule R59) and the checks on them (60_exceptions.md rules R128 to
R132). Lengths and sums are unbounded integers (00_scope.md rule R3). -/

namespace Sys2Proof.Machine

/-- `sint64(v)`: two's complement (R4). -/
def sint64 (v : Word) : Int := if v.getLsbD 63 then (v.toNat : Int) - 2 ^ 64 else v.toNat

/-- Slot index `i` names no slot (R20, R128). -/
def State.noSlot (s : State) (i : Nat) : Bool := decide (s.cfg.nAcc ≤ i)

/-- VALID[i] (R21). -/
def State.readValid (s : State) (i : Nat) : Bool := s.valid.getD i false

/-- Slot `i` holds no accumulator (R129). -/
def State.uninit (s : State) (i : Nat) : Bool := !s.readValid i

/-- `X + Y > BUF_SIZE`, the sum unbounded (R47, R131). -/
def State.rangeBad (s : State) (off len : Word) : Bool := decide (s.cfg.bufSize < off.toNat + len.toNat)

/-- `sint64(X) < 0` (R122, R132). -/
def lengthBad (lenB : Word) : Bool := decide (sint64 lenB < 0)

/-- The first check that fails, in the order written; `ok` if none does (R134). -/
def firstError : List (Bool × ErrCode) → ErrCode
  | [] => .ok
  | (bad, e) :: rest => if bad then e else firstError rest

end Sys2Proof.Machine
end

