-- ==== Sys2Proof/Machine/Ops.lean ====
section
/-! DEFINITION. The named operations over BUF, the accumulator file and TABLE, the completion of a command with its
code (which is all an error does: CORE takes no trap, 60_exceptions.md rules R126, R138), and hardware reset. -/

namespace Sys2Proof.Machine

/-! BUF (R25, R41; R5 `BufRead`). -/

/-- The byte written at an address since hardware reset, if any. -/
def Memory.lookup : Memory → Nat → Option Byte
  | [], _ => none
  | (a, v) :: rest, addr => if a = addr then some v else Memory.lookup rest addr

/-- Write a byte, keeping the list in rising order with one entry an address. -/
def Memory.store : Memory → Nat → Byte → Memory
  | [], addr, v => [(addr, v)]
  | (a, w) :: rest, addr, v =>
    if addr < a then (addr, v) :: (a, w) :: rest
    else if addr = a then (addr, v) :: rest
    else (a, w) :: Memory.store rest addr v

/-- The canonical form: addresses strictly rising. An unlisted address holds no value, so no entry can equal what an
unlisted address holds. -/
abbrev Memory.wf (m : Memory) : Prop := m.Pairwise fun c d => c.1 < d.1

/-- `BufRead(a)` (R5, R48): the byte last written there since hardware reset, else the free draw of that address
(93 I5; log entry 3). -/
def State.bufRead (s : State) (addr : Nat) : Byte :=
  match s.buf.lookup addr with
  | some v => v
  | none => Config.unwrittenByte s.epoch addr

/-- The host's write of a byte: `BUF[addr] <- v` (R152). -/
def State.bufWrite (s : State) (addr : Nat) (v : Byte) : State := { s with buf := s.buf.store addr v }

/-! The accumulator file (R5, R20 to R24). -/

/-- `ACC[i]`. -/
def State.readAcc (s : State) (i : Nat) : Word := s.acc.getD i 0

/-- `ACC[i] <- v`. -/
def State.writeAcc (s : State) (i : Nat) (v : Word) : State := { s with acc := s.acc.setIfInBounds i v }

/-- `VALID[i] <- 1`. No command clears a VALID bit (R21). -/
def State.markValid (s : State) (i : Nat) : State := { s with valid := s.valid.setIfInBounds i true }

/-- Create an accumulator: `ACC[d] <- v; VALID[d] <- 1` (R83, R86, R94, R118). -/
def State.create (s : State) (d : Nat) (v : Word) : State := (s.writeAcc d v).markValid d

/-- The external value of slot i, the CRC a host sees: `ACC[i] ^ ALL_ONES` (R23). -/
def State.external (s : State) (i : Nat) : Word := s.readAcc i ^^^ allOnes

/-! TABLE and the fold (R18, R90). -/

/-- `TABLE[b]` (R5). -/
def State.tableEntry (s : State) (b : Byte) : Word := s.table[b.toNat]'b.isLt

/-- One update step: `TABLE[(r ^ zext_64(v)) & 0xFF] ^ (r >> 8)` (R90). The index is the low 8 bits, which is the
mask with 0xFF. -/
def State.crcStep (s : State) (r : Word) (v : Byte) : Word :=
  s.tableEntry ((r ^^^ v.setWidth 64).setWidth 8) ^^^ (r >>> 8)

/-- `fold(r, off, len)`: the bytes at off, off+1, ..., off+len-1, in that order, each once (R43, R90). -/
def State.fold (s : State) (r : Word) (off : Nat) : Nat → Word
  | 0 => r
  | len + 1 => s.fold (s.crcStep r (s.bufRead off)) (off + 1) len

/-! Completion of a command (R5, R27, R28, R126). -/

/-- The completion step: STATUS.ERR takes the code and BUSY returns to 0 (R27, R28). -/
def State.complete (s : State) (e : ErrCode) : State := { s with err := e.code, inFlight := none }

/-- `raise CmdError(e)`: the command completes with the code and changes nothing else (R5, R126). CORE has no other
exception: nothing is saved and nothing is entered (R138), so there is no return either (R139). -/
def State.raise (s : State) (e : ErrCode) : State := s.complete e

/-- A command of R134 `execute`: if a check failed, raise its code; else run the body, which ends with
`STATUS.ERR <- OK`. -/
def State.perform (s : State) (e : ErrCode) (body : State → State) : Host.Outcome State Fault Refusal :=
  if e = .ok then .next ((body s).complete .ok) else .next (s.raise e)

/-! Hardware reset (R146, R159). -/

/-- Every piece of CORE's state takes its reset value, and a command in flight is abandoned (R146, R159). The
parameters, the host's side (its coming moves, the move the port holds for it, what it has read) and the schedule
are not CORE's registers and stay; unwritten BUF bytes are drawn anew (log entries 3, 9). -/
def State.hardReset (s : State) : State :=
  { State.reset with
    cfg := s.cfg, held := s.held, moves := s.moves, seen := s.seen, turns := s.turns, epoch := s.epoch + 1 }

end Sys2Proof.Machine
end

