-- ==== Sys2Proof/Machine/Accumulator.lean ====
section
/-! DEFINITION. The five accumulator commands, crc64_accumulator (41_accumulator.md). Each lists its checks in the
order of 60_exceptions.md rule R134 and then its body. -/

namespace Sys2Proof.Machine

/-- NEW (R83). -/
def execNew (d : Nat) (s : State) : Host.Outcome State Fault Refusal :=
  s.perform (firstError [(s.noSlot d, .errIndex)]) fun s => s.create d allOnes

/-- NEWU (R86, R87): the fold starts from the seed. -/
def execNewu (d : Nat) (off len : Word) (s : State) : Host.Outcome State Fault Refusal :=
  s.perform (firstError [(s.noSlot d, .errIndex), (s.rangeBad off len, .errRange)]) fun s =>
    s.create d (s.fold allOnes off.toNat len.toNat)

/-- UPDATE (R89): the fold starts from the old ACC[d]; VALID[d] stays 1. -/
def execUpdate (d : Nat) (off len : Word) (s : State) : Host.Outcome State Fault Refusal :=
  s.perform
    (firstError [(s.noSlot d, .errIndex), (s.uninit d, .errUninit), (s.rangeBad off len, .errRange)]) fun s =>
    s.writeAcc d (s.fold (s.readAcc d) off.toNat len.toNat)

/-- RESET (R94, R95): the seed again; a slot with VALID = 0 is created. -/
def execReset (d : Nat) (s : State) : Host.Outcome State Fault Refusal :=
  s.perform (firstError [(s.noSlot d, .errIndex)]) fun s => s.create d allOnes

/-- GETVAL (R98): RESULT takes the external value; nothing else is written. -/
def execGetval (d : Nat) (s : State) : Host.Outcome State Fault Refusal :=
  s.perform (firstError [(s.noSlot d, .errIndex), (s.uninit d, .errUninit)]) fun s =>
    { s with result := s.external d }

end Sys2Proof.Machine
end

