-- ==== Sys2Proof/Machine/Combine.lean ====
section
/-! DEFINITION. COMBINE, crc64_combine (42_combine.md rules R118 to R125). -/

namespace Sys2Proof.Machine

/-- The loop of R118, steps 2 and 3: while n ≠ 0, apply M if the low bit of n is 1, square M, halve n. The first
argument bounds the passes; `n` passes are always enough, since each at least halves n. -/
def combineLoop : Nat → Matrix64 → Word → Nat → Word
  | 0, _, v, _ => v
  | k + 1, M, v, n =>
    if n = 0 then v
    else combineLoop k (sqMatrix M) (if n % 2 = 1 then applyMatrix M v else v) (n / 2)

/-- Steps 1 to 5 of R118 on external values: `cA` if lenB = 0 (R119), else cA shifted by lenB * 8 bits, XOR cB. The
product is unbounded (R3, R123). -/
def combineValue (cA cB : Word) (lenB : Nat) : Word :=
  if lenB = 0 then cA else combineLoop (lenB * 8) matrixS cA (lenB * 8) ^^^ cB

/-- COMBINE (R118): reads external values (R121), writes the result back in internal form. -/
def execCombine (d a b : Nat) (lenB : Word) (s : State) : Host.Outcome State Fault Refusal :=
  s.perform
    (firstError
      [(s.noSlot d, .errIndex), (s.noSlot a || s.noSlot b, .errIndex), (s.uninit a || s.uninit b, .errUninit),
       (d == a || d == b, .errAlias), (lengthBad lenB, .errLength)]) fun s =>
    s.create d (combineValue (s.external a) (s.external b) (sint64 lenB).toNat ^^^ allOnes)

end Sys2Proof.Machine
end

