-- ==== Sys2Proof/Machine/Dispatch.lean ====
section
/-! DEFINITION. The meaning of every constructor of Instr, one arm each. -/

namespace Sys2Proof.Machine

def exec (i : Instr) (s : State) : Host.Outcome State Fault Refusal :=
  match i with
  | .new d => Sys2Proof.Machine.execNew d s
  | .newu d off len => Sys2Proof.Machine.execNewu d off len s
  | .update d off len => Sys2Proof.Machine.execUpdate d off len s
  | .reset d => Sys2Proof.Machine.execReset d s
  | .getval d => Sys2Proof.Machine.execGetval d s
  | .combine d a b lenB => Sys2Proof.Machine.execCombine d a b lenB s

end Sys2Proof.Machine
end

