-- ==== Sys2Proof/Machine/Generator.lean ====
section
/-! DEFINITION. The table generator, crc64_table_generator (40_table_generator.md rules R76 to R80). -/

namespace Sys2Proof.Machine

/-- `n` iterations of the loop body of `gen` (R76). -/
def shiftBits : Nat → Word → Word
  | 0, r => r
  | n + 1, r => shiftBits n (shift1 r)

/-- `gen(b)`: 8 bit shifts of the reflected division from the byte (R76). -/
def gen (b : Byte) : Word := shiftBits 8 (b.setWidth 64)

/-- The 256 entries the generator writes: `TABLE[b] = gen(b)` (R76, R77). -/
def genTable : Vector Word 256 :=
  ⟨((List.range 256).map fun b => gen (BitVec.ofNat 8 b)).toArray, by simp⟩

/-- The generator's step: enabled exactly when TABLE_READY = 0; it writes every entry and then sets TABLE_READY, as
one atomic step (R78), and writes nothing else (R79). -/
def State.generatorStep (s : State) : State :=
  if s.tableReady then s else { s with table := genTable, tableReady := true }

end Sys2Proof.Machine
end

