-- ==== Sys2Proof/Machine/Engine.lean ====
section
/-! DEFINITION. The turns of the agents: the generator (40 R78), the command engine (60 R134), the host (70 R150 to
R155), and the port, which holds a move it cannot take yet (10 R31); and the choice of the agent that moves. -/

namespace Sys2Proof.Machine

/-- `execute` of R134: a word that decodes to Illegal raises ERR_ILLEGAL (R127), else the instruction runs. -/
def runCommand (c : Command) (s : State) : Host.Outcome State Fault Refusal :=
  match decode c with
  | .ok i => exec i s
  | .error _ => .next (s.raise .errIllegal)

/-- The engine's turn: complete the command in flight; with none it does nothing. Log entry 12. -/
def State.engineTurn (s : State) : Host.Outcome State Fault Refusal :=
  match s.inFlight with
  | some c => runCommand c s
  | none => .next s

/-- The port accepts a command: STATUS.BUSY = 0 and TABLE_READY = 1 (R31). -/
def State.portOpen (s : State) : Bool := !s.busy && s.tableReady

/-- The 'enabled when' column of R150. -/
def State.enabled (s : State) : HostMove → Bool
  | .hardReset => true
  | .writeBuf _ _ => !s.busy
  | .issue _ => s.portOpen
  | .read _ => true

/-- A move the port can hold: one that is not always enabled (R150). -/
def HostMove.holdable : HostMove → Bool
  | .hardReset => false
  | .writeBuf _ _ => true
  | .issue _ => true
  | .read _ => false

/-- A move the host does not send while the port holds one: the host waits for a held move (R31 'the host waits', R150
'Host duties'). Hardware reset and the reads are not kept back, being always enabled (R146, R150), nor is a BUF write by
a held command, being enabled whenever BUSY = 0 (R150). Log entry 9. -/
def State.keptBack (s : State) (m : HostMove) : Bool :=
  match s.held, m with
  | none, _ => false
  | some (.issue _), .writeBuf _ _ => false
  | some _, m => m.holdable

/-- The host may go on after WAIT: STATUS.BUSY = 0 and the port holds nothing (R66; log entry 9). -/
def State.waitOver (s : State) : Bool := !s.busy && s.held.isNone

/-- The host's turn: which move takes effect, if any, and the state with the host's line used. An enabled move takes
effect at once; another is held if the port is free (R31, R153, R154), else the host waits; a WAIT lasts until it is
over. -/
def State.hostNext (s : State) : Option HostMove × State :=
  match s.moves with
  | [] => (none, s)
  | .wait :: rest => if s.waitOver then (none, { s with moves := rest }) else (none, s)
  | .move m :: rest =>
    if s.enabled m && !s.keptBack m then (some m, { s with moves := rest })
    else if s.held.isNone then (none, { s with held := some m, moves := rest })
    else (none, s)

/-- The port's turn: the held move takes effect once it is enabled (R31, R153, R154). -/
def State.portNext (s : State) : Option HostMove × State :=
  match s.held with
  | some m => if s.enabled m then (some m, { s with held := none }) else (none, s)
  | none => (none, s)

/-- The effect of a move (R150): hardware reset (R146), a byte of BUF (R152), acceptance of a command (R28, R31), or a
read, which changes nothing of CORE's. -/
def State.takeMove (s : State) : HostMove → Host.Outcome State Fault Refusal
  | .hardReset => .next s.hardReset
  | .writeBuf addr v => if addr < s.cfg.bufSize then .next (s.bufWrite addr v) else .fault (.bufAddress addr)
  | .issue c => .next { s with inFlight := some c }
  | .read r => .next { s with seen := s.readReg r :: s.seen }

/-- A turn of the port or the host: the move that takes effect, if any, on the state it leaves. -/
def moveTurn : Option HostMove × State → Host.Outcome State Fault Refusal
  | (some m, s) => s.takeMove m
  | (none, s) => .next s

/-- The agent that moves: the schedule's first; with none named, the generator while TABLE_READY = 0, else the engine
while a command is in flight, else the port while it holds a move, else the host (R160: every enabled agent gets its
step). Log entry 8. -/
def State.agent (s : State) : Agent :=
  match s.turns with
  | a :: _ => a
  | [] =>
    if !s.tableReady then .generator
    else if s.busy then .engine
    else if s.held.isSome then .port
    else .host

/-- The state with the schedule's first turn used. -/
def State.popTurn (s : State) : State := { s with turns := s.turns.tail }

/-- One turn of an agent; an agent that is not enabled does nothing. -/
def State.takeTurn (s : State) : Agent → Host.Outcome State Fault Refusal
  | .generator => .next s.generatorStep
  | .engine => s.engineTurn
  | .port => moveTurn s.portNext
  | .host => moveTurn s.hostNext

/-- The state in which the generator has run and the port has accepted the command, the engine's turn next. -/
def State.withCommand (s : State) (c : Command) : State :=
  { s.generatorStep with inFlight := some c, turns := .engine :: s.turns }

/-! The host's program text (R65, R66). -/

/-- The host directive `WRBUF addr, bytes` (R66). -/
def wrbuf (addr : Nat) : List Byte → List HostAct
  | [] => []
  | v :: vs => .move (.writeBuf addr v) :: wrbuf (addr + 1) vs

/-- One line of a host program: a command (R65), a directive, or the pseudo-instruction CRC (R66). -/
inductive HostLine where
  | cmd (i : Instr)
  | wrbuf (addr : Nat) (bytes : List Byte)
  | wait
  | read (r : HostReg)
  | crc (d : Nat) (off len : Word)
  deriving DecidableEq, Repr

/-- What the host does for a line. -/
def HostLine.acts : HostLine → List HostAct
  | .cmd i => [.move (.issue (encode i))]
  | .wrbuf addr bytes => Sys2Proof.Machine.wrbuf addr bytes
  | .wait => [.wait]
  | .read r => [.move (.read r)]
  | .crc d off len => (crcPseudo d off len).map fun i => .move (.issue (encode i))

/-- What the host does for a program, in its order, to be loaded into `State.moves` (log entry 8). -/
def hostProgram (lines : List HostLine) : List HostAct := (lines.map HostLine.acts).flatten

end Sys2Proof.Machine
end

