-- ==== Sys2Proof/Machine/Step.lean ====
section
/-! DEFINITION. One step of the machine, and the placing of one instruction where the next step runs it. -/

namespace Sys2Proof.Machine

/-- One step: one turn of the agent that moves. -/
def step (s : State) : Host.Outcome State Fault Refusal := s.popTurn.takeTurn s.agent

/-- `s` with the instruction of these bits accepted by the command port, so that the very next step completes it
(log entry 11: CORE fetches nothing, R32, R54). -/
def State.withFetchWord (s : State) (nbits w : Nat) : State := s.withCommand (Command.ofTableWord nbits w)

end Sys2Proof.Machine
end

