-- ==== Sys2Proof/Safety.lean ====
section
/-! DEFINITION. What counts as a good state and a safe run, and the terms the statements use: the checks of R134 as
one function of the command, the CRC of a byte string (R93), and what it means that a step leaves the rest alone. -/

namespace Sys2Proof.Machine

/-! Good states. -/

/-- A STATUS word the host may see: reserved bits 3:2 and 31:8 are 0, ERR is 0 to 6 (R26, R27). -/
def legalStatus (w : BitVec 32) : Prop :=
  w.extractLsb' 2 2 = 0 ∧ w.extractLsb' 8 24 = 0 ∧ (w.extractLsb' 4 4).toNat ≤ 6

/-- The invariant of the machine: what holds in every state a run can reach. -/
structure State.Inv (s : State) : Prop where
  /-- The parameters are within 00_scope.md §4. -/
  params : s.cfg.Ok
  /-- BUF is in its canonical form. -/
  bufSorted : Memory.wf s.buf
  /-- BUF holds bytes at addresses below BUF_SIZE only (R25). -/
  bufInside : ∀ c ∈ s.buf, c.1 < s.cfg.bufSize
  /-- Once TABLE_READY is 1 the table is the one `gen` gives, and stays so (R18, R77). -/
  tableBuilt : s.tableReady = true → s.table = genTable
  /-- No slot at N_ACC or above is ever created (R20). -/
  slotsReal : ∀ i, s.cfg.nAcc ≤ i → s.readValid i = false
  /-- STATUS.ERR is 0 to 6 (R27, R136). -/
  errLegal : s.err.toNat ≤ 6
  /-- A command is in flight only once the table is ready (R31). -/
  flightReady : s.busy = true → s.tableReady = true
  /-- The port holds only commands and BUF writes (R31, R153). -/
  heldHoldable : ∀ m, s.held = some m → m.holdable = true
  /-- Every STATUS word the host has read is legal (R26, R27). -/
  seenLegal : ∀ w, HostRead.status w ∈ s.seen → legalStatus w

/-- Every BUF write the host is still to make names an address of BUF: the moves R150 gives the host. -/
def State.MovesExist (s : State) : Prop :=
  ∀ addr v, (HostAct.move (.writeBuf addr v) ∈ s.moves ∨ s.held = some (.writeBuf addr v)) → addr < s.cfg.bufSize

/-! The checks of R134 as one function. -/

/-- The slot d of a command (R60). -/
def dest : Instr → Nat
  | .new d => d
  | .newu d _ _ => d
  | .update d _ _ => d
  | .reset d => d
  | .getval d => d
  | .combine d _ _ _ => d

/-- `check(cw, X, Y)` of R134, line for line. -/
def checkCode (c : Command) (s : State) : ErrCode :=
  match decode c with
  | .error _ => .errIllegal
  | .ok i =>
    if dest i ≥ s.cfg.nAcc then .errIndex
    else match i with
      | .new _ => .ok
      | .reset _ => .ok
      | .newu _ off len => if off.toNat + len.toNat > s.cfg.bufSize then .errRange else .ok
      | .update d off len =>
        if s.readValid d = false then .errUninit
        else if off.toNat + len.toNat > s.cfg.bufSize then .errRange else .ok
      | .getval d => if s.readValid d = false then .errUninit else .ok
      | .combine d a b lenB =>
        if a ≥ s.cfg.nAcc ∨ b ≥ s.cfg.nAcc then .errIndex
        else if s.readValid a = false ∨ s.readValid b = false then .errUninit
        else if d = a ∨ d = b then .errAlias
        else if lenB.getLsbD 63 = true then .errLength else .ok

/-! The CRC of a byte string. -/

/-- `fold_s(r)` with the table of `gen`: `step` applied to the bytes of `bs` in order (R90, R93). -/
def crcFold (r : Word) (bs : List Byte) : Word :=
  bs.foldl (fun r b => gen ((r ^^^ b.setWidth 64).setWidth 8) ^^^ (r >>> 8)) r

/-- `CRC(s) = fold_s(ALL_ONES) ^ ALL_ONES` (R93). -/
def crcOf (bs : List Byte) : Word := crcFold allOnes bs ^^^ allOnes

/-- `zshift(r, n)`: n zero-byte steps `r <- TABLE[r & 0xFF] ^ (r >> 8)` (R124(c)). -/
def zshift (r : Word) : Nat → Word
  | 0 => r
  | n + 1 => zshift (gen (r.setWidth 8) ^^^ (r >>> 8)) n

/-- The bytes a fold of (off, len) reads, in its order (R43). -/
def State.bytesAt (s : State) (off len : Nat) : List Byte := (List.range len).map fun k => s.bufRead (off + k)

/-! What a step leaves alone. -/

/-- Slot `i` is as it was: ACC[i] and VALID[i]. -/
def SameSlot (s t : State) (i : Nat) : Prop := t.readAcc i = s.readAcc i ∧ t.readValid i = s.readValid i

/-- What no command writes is as it was: every byte of BUF, TABLE, TABLE_READY, the parameters, the port's held move,
the host's moves and reads, the schedule and the count of resets. -/
def SameOutside (s t : State) : Prop :=
  (∀ addr, t.bufRead addr = s.bufRead addr) ∧ t.buf = s.buf ∧ t.table = s.table ∧ t.tableReady = s.tableReady ∧
  t.cfg = s.cfg ∧ t.held = s.held ∧ t.moves = s.moves ∧ t.seen = s.seen ∧ t.turns = s.turns ∧ t.epoch = s.epoch

/-- The command completed with this code: STATUS.ERR holds it and STATUS.BUSY is 0 (R27, R28). -/
def Completed (t : State) (code : BitVec 4) : Prop := t.err = code ∧ t.busy = false

/-- The instruction fails with this code: STATUS.ERR takes it, BUSY returns to 0, and nothing else changes (R126). -/
def FailsWith (s : State) (i : Instr) (code : BitVec 4) : Prop :=
  exec i s = .next { s with err := code, inFlight := none }

/-- The registers of CORE a command or the host can change are as they were: ACC, VALID, BUF, STATUS.ERR, RESULT. -/
def SameRegisters (s t : State) : Prop :=
  t.acc = s.acc ∧ t.valid = s.valid ∧ t.buf = s.buf ∧ t.err = s.err ∧ t.result = s.result

/-- A command word with opcode `op` that its row's mask and pattern do not accept raises ERR_ILLEGAL, code 3, and
does nothing else (R62, R126). -/
def BadFieldsFail (s : State) (op : BitVec 4) (mask pattern : CmdWord) : Prop :=
  ∀ cw x y, cw.extractLsb' 0 4 = op → cw &&& mask ≠ pattern →
    runCommand ⟨cw, x, y⟩ s = .next { s with err := 3, inFlight := none }

/-- On this step the host's move `m` takes effect: at once on the host's turn, or from the port on the port's. -/
def State.HostTakes (s : State) (m : HostMove) : Prop :=
  (s.agent = .host ∧ s.popTurn.hostNext.1 = some m) ∨ (s.agent = .port ∧ s.popTurn.portNext.1 = some m)

end Sys2Proof.Machine
end

