-- ==== Sys2Proof/Certificates/Slice0/Obligations.lean ====
section
/-! DEFINITION. The statements for the provers, each from a numbered rule of spec/. -/

open Sys2Proof Sys2Proof.Machine

/-! Encoding (30_encoding.md). -/

/-- R67: the eight worked encodings, assembled and decoded, and the five words that fail with ERR_ILLEGAL (code 3). -/
def Obligations.WorkedEncodingsDecode : Prop :=
  (∀ p ∈ ([(.new 0, ⟨0x00000001, 0, 0⟩), (.newu 1 5 4, ⟨0x00000102, 5, 4⟩), (.update 0 0 9, ⟨0x00000003, 0, 9⟩),
      (.reset 3, ⟨0x00000304, 0, 0⟩), (.getval 2, ⟨0x00000205, 0, 0⟩), (.combine 2 0 1 4, ⟨0x00010206, 4, 0⟩),
      (.combine 2 0 1 0xFFFFFFFFFFFFFFFF, ⟨0x00010206, 0xFFFFFFFFFFFFFFFF, 0⟩),
      (.combine 15 14 13 0, ⟨0x000DEF06, 0, 0⟩)] : List (Instr × Command)),
    encode p.1 = p.2 ∧ decode p.2 = .ok p.1) ∧
  (∀ cw ∈ ([0x00000000, 0x00000007, 0x00000011, 0x00100001, 0x00001001] : List CmdWord), ∀ (x y : Word) (s : State),
    runCommand ⟨cw, x, y⟩ s = .next { s with err := 3, inFlight := none })

/-- R57, R60, R65: every well-formed instruction is what the decoder reads from its encoding. -/
def Obligations.DecodeEncodeRoundTrip : Prop :=
  ∀ i : Instr, i.wf = true → decode (encode i) = .ok i

/-- R57, R59, R60: a command that decodes is well formed, has the encoder's command word, and its operand words are the
instruction's. -/
def Obligations.EncodeDecodeRoundTrip : Prop :=
  ∀ (c : Command) (i : Instr), decode c = .ok i →
    i.wf = true ∧ (encode i).cw = c.cw ∧
    (∀ d off len, i = .newu d off len ∨ i = .update d off len → off = c.x ∧ len = c.y) ∧
    (∀ d a b lenB, i = .combine d a b lenB → lenB = c.x)

/-- R60: a command is an instruction of a row exactly when `cw & mask = match`, and the six patterns do not overlap. -/
def Obligations.OpcodeRowsAreTheDecoder : Prop :=
  ∀ (c : Command) (r : OpcodeRow), r ∈ opcodeRows →
    (c.cw &&& r.mask = r.pattern ↔ ∃ i, decode c = .ok i ∧ i.mnemonic = r.mnemonic) ∧
    (∀ r' ∈ opcodeRows, c.cw &&& r.mask = r.pattern → c.cw &&& r'.mask = r'.pattern → r = r')

/-- R62: which words fail with ERR_ILLEGAL, field by field and by the table; that they change STATUS.ERR alone; and that
X and Y never make a command illegal. -/
def Obligations.IllegalWords : Prop :=
  ∀ (cw : CmdWord) (x y : Word) (s : State),
    ((∃ why, decode ⟨cw, x, y⟩ = .error why) ↔ ∀ r ∈ opcodeRows, cw &&& r.mask ≠ r.pattern) ∧
    (1 ≤ (cw.extractLsb' 0 4).toNat → (cw.extractLsb' 0 4).toNat ≤ 6 →
      ((∃ why, decode ⟨cw, x, y⟩ = .error why) ↔
        (cw.extractLsb' 4 4 ≠ 0 ∨ cw.extractLsb' 20 12 ≠ 0 ∨
          (cw.extractLsb' 0 4 ≠ 6 ∧ cw.extractLsb' 12 8 ≠ 0)))) ∧
    ((∃ why, decode ⟨cw, x, y⟩ = .error why) →
      runCommand ⟨cw, x, y⟩ s = .next { s with err := 3, inFlight := none }) ∧
    (∀ x' y', (∃ why, decode ⟨cw, x, y⟩ = .error why) ↔ (∃ why, decode ⟨cw, x', y'⟩ = .error why))

/-- R61: a reserved OP, 0x0 or 0x7 to 0xF, fails with ERR_ILLEGAL and changes STATUS.ERR alone. -/
def Obligations.ReservedOpcodesFail : Prop :=
  ∀ (cw : CmdWord) (x y : Word) (s : State),
    (cw.extractLsb' 0 4 = 0 ∨ 7 ≤ (cw.extractLsb' 0 4).toNat) →
      runCommand ⟨cw, x, y⟩ s = .next { s with err := 3, inFlight := none }

/-- R59: NEW, RESET and GETVAL ignore X and Y, and COMBINE ignores Y. -/
def Obligations.IgnoredOperandWords : Prop :=
  ∀ (cw : CmdWord) (x y x' y' : Word) (s : State),
    ((cw.extractLsb' 0 4 = 1 ∨ cw.extractLsb' 0 4 = 4 ∨ cw.extractLsb' 0 4 = 5) →
      runCommand ⟨cw, x, y⟩ s = runCommand ⟨cw, x', y'⟩ s) ∧
    (cw.extractLsb' 0 4 = 6 → runCommand ⟨cw, x, y⟩ s = runCommand ⟨cw, x, y'⟩ s)

/-! Reset and the invariant (10_state.md §9, 70_reset_and_hazards.md). -/

/-- R37, the values it gives; a BUF byte is a free draw (log entry 3). -/
def Obligations.ResetValues : Prop :=
  State.reset.tableReady = false ∧ (∀ i, State.reset.readValid i = false) ∧ State.reset.busy = false ∧
  State.reset.statusWord = 0 ∧ State.reset.result = 0 ∧ State.reset.inFlight = none ∧
  (∀ addr, State.reset.bufRead addr = Config.unwrittenByte 0 addr)

/-- R146, R159: hardware reset, at any time: whatever CORE does and whatever the port holds, the host's reset takes
effect on the host's turn, with every value R37 gives, the command in flight abandoned, and TABLE_READY = 0, which enables
the generator (R78); every BUF byte a fresh free draw (log entry 3). ACC and TABLE are left out, as R37 leaves them
unspecified. That the held move stays is the model's choice (log entry 9), and so is the last clause: with no turns named
the generator moves before a held move and before the host (the default order, log entry 8). -/
def Obligations.HardwareResetAtAnyTime : Prop :=
  ∀ (s : State) (ts : List Agent) (rest : List HostAct),
    s.turns = .host :: ts → s.moves = .move .hardReset :: rest →
    ∃ t, step s = .next t ∧ t.tableReady = false ∧ (∀ i, t.readValid i = false) ∧ t.busy = false ∧
      t.inFlight = none ∧ t.err = 0 ∧ t.statusWord = 0 ∧ t.result = 0 ∧
      (∀ addr, t.bufRead addr = Config.unwrittenByte (s.epoch + 1) addr) ∧
      t.cfg = s.cfg ∧ t.moves = rest ∧ t.held = s.held ∧
      ({ t with turns := [] } : State).agent = .generator

/-- The state after reset meets the invariant. -/
def Obligations.ResetMeetsInvariant : Prop := State.Inv State.reset

/-- R18, R20, R25, R26, R27, R31 as one invariant of every step, from every state that meets it. -/
def Obligations.StepKeepsInvariant : Prop :=
  ∀ s t : State, s.Inv → step s = .next t → t.Inv

/-! The table generator (40_table_generator.md). -/

/-- R79: the generator raises nothing and writes only TABLE and TABLE_READY; while TABLE_READY = 0 its step writes
TABLE[b] = gen(b) for every b and sets TABLE_READY; once TABLE_READY = 1 it does nothing. -/
def Obligations.GeneratorStep : Prop :=
  ∀ (s : State) (ts : List Agent), s.turns = .generator :: ts →
    ∃ t, step s = .next t ∧ t.tableReady = true ∧
      (s.tableReady = false → ∀ b : Byte, t.tableEntry b = gen b) ∧ (s.tableReady = true → t.table = s.table) ∧
      SameRegisters s t ∧ (∀ addr, t.bufRead addr = s.bufRead addr) ∧ t.inFlight = s.inFlight ∧ t.held = s.held ∧
      t.moves = s.moves ∧ t.seen = s.seen ∧ t.cfg = s.cfg ∧ t.turns = ts

/-- R81 (a) to (d): gen is linear, is S^8 on the byte, has TABLE[0] = 0 and TABLE[0x80] = POLY, and its top byte
determines the index. -/
def Obligations.TableProperties : Prop :=
  (∀ x y : Byte, gen (x ^^^ y) = gen x ^^^ gen y) ∧
  (∀ b : Byte, gen b = applyMatrix (powMatrix matrixS 8) (b.setWidth 64)) ∧
  gen 0 = 0 ∧ gen 0x80 = poly ∧
  (∀ x y : Byte, gen x >>> 56 = gen y >>> 56 → x = y)

/-- R18, R19: TABLE changes only in the generator's step and at hardware reset, and TABLE_READY returns to 0 only at
hardware reset. -/
def Obligations.TableWrittenOnlyByGenerator : Prop :=
  ∀ s t : State, step s = .next t →
    (t.table ≠ s.table →
      (s.agent = .generator ∧ s.tableReady = false ∧ t.table = genTable ∧ t.tableReady = true) ∨
      (s.HostTakes .hardReset ∧ t.tableReady = false)) ∧
    (s.tableReady = true → t.tableReady = false → s.HostTakes .hardReset)

/-! The fold (41_accumulator.md §1, 20_memory.md). -/

/-- R43: a fold takes the bytes BUF[off], ..., BUF[off+len-1] in increasing order, each once; once the table is built
it is the fold with gen's table. -/
def Obligations.FoldReadsBytesInOrder : Prop :=
  ∀ (s : State) (r : Word) (off len : Nat),
    s.fold r off len = ((List.range len).map fun k => s.bufRead (off + k)).foldl s.crcStep r ∧
    (s.Inv → s.tableReady = true → s.fold r off len = crcFold r (s.bytesAt off len))

/-- R91: chunk invariance, of the fold and of two UPDATEs against one. -/
def Obligations.ChunkInvariance : Prop :=
  (∀ (s : State) (r : Word) (off l1 l2 : Nat), off + l1 + l2 ≤ s.cfg.bufSize →
    s.fold (s.fold r off l1) (off + l1) l2 = s.fold r off (l1 + l2)) ∧
  (∀ (s : State) (d : Nat) (off l1 off2 l2 len : Word), s.cfg.Ok → d < s.cfg.nAcc → s.readValid d = true →
    off2.toNat = off.toNat + l1.toNat → len.toNat = l1.toNat + l2.toNat → off.toNat + len.toNat ≤ s.cfg.bufSize →
    ∃ u t, exec (.update d off l1) s = .next u ∧ exec (.update d off2 l2) u = .next t ∧
      exec (.update d off len) s = .next t)

/-- R92: offset invariance: a fold depends on the bytes of its range only, not on where they stand or on what
surrounds them. -/
def Obligations.OffsetInvariance : Prop :=
  ∀ (s t : State) (r : Word) (off1 off2 len : Nat), t.table = s.table →
    (∀ k, k < len → t.bufRead (off2 + k) = s.bufRead (off1 + k)) → t.fold r off2 len = s.fold r off1 len

/-- R101: the fold is linear over GF(2) once the length is fixed. -/
def Obligations.FoldIsLinear : Prop :=
  ∀ (bs : List Byte) (r r1 r2 : Word),
    crcFold r1 bs ^^^ crcFold r2 bs = applyMatrix (powMatrix matrixZ bs.length) (r1 ^^^ r2) ∧
    crcFold r bs = applyMatrix (powMatrix matrixZ bs.length) r ^^^ crcFold 0 bs

/-- R93: GETVAL after NEWU over a range holding a byte string returns its CRC; the CRC of no bytes is 0; the three
vectors of the source. -/
def Obligations.CrcOfRange : Prop :=
  (∀ (s : State) (d : Nat) (off len : Word), s.Inv → s.tableReady = true → d < s.cfg.nAcc →
    off.toNat + len.toNat ≤ s.cfg.bufSize →
    ∃ u t, exec (.newu d off len) s = .next u ∧ exec (.getval d) u = .next t ∧
      t.result = crcOf (s.bytesAt off.toNat len.toNat)) ∧
  crcOf [] = 0 ∧
  crcOf [0x31, 0x32, 0x33, 0x34, 0x35, 0x36, 0x37, 0x38, 0x39] = 0x995dc9bbdf1939fa ∧
  crcOf ([0x54, 0x68, 0x69, 0x73, 0x20, 0x69, 0x73, 0x20, 0x61, 0x20, 0x74, 0x65, 0x73, 0x74, 0x20, 0x6F, 0x66] ++
      [0x20, 0x74, 0x68, 0x65, 0x20, 0x65, 0x6D, 0x65, 0x72, 0x67, 0x65, 0x6E, 0x63, 0x79, 0x20, 0x62, 0x72] ++
      [0x6F, 0x61, 0x64, 0x63, 0x61, 0x73, 0x74, 0x20, 0x73, 0x79, 0x73, 0x74, 0x65, 0x6D, 0x2E]) =
    0x27db187fc15bbc72 ∧
  crcOf [0x49, 0x48, 0x41, 0x54, 0x45, 0x4D, 0x41, 0x54, 0x48] = 0x3920e0f66b6ee0c8

/-! The six commands: encoding, errors, effect and frame of each. -/

/-- R83: NEW. It completes for every slot of the file, valid or not, and its frame is everything but slot d, ERR and
BUSY. -/
def Obligations.NewCommand : Prop :=
  ∀ (s : State) (d : Nat) (x y : Word), d < 16 →
    decode ⟨0x00000001#32 ||| BitVec.ofNat 32 d <<< 8, x, y⟩ = .ok (.new d) ∧
    BadFieldsFail s 0x1 0xFFFFF0FF 0x00000001 ∧
    (s.cfg.nAcc ≤ d → FailsWith s (.new d) 4) ∧
    (d < s.cfg.nAcc →
      ∃ t, exec (.new d) s = .next t ∧ t.readAcc d = 0xFFFFFFFFFFFFFFFF ∧ t.external d = 0 ∧ t.readValid d = true ∧
        Completed t 0 ∧ t.result = s.result ∧ (∀ j, j ≠ d → SameSlot s t j) ∧ SameOutside s t)

/-- R86, R87: NEWU. -/
def Obligations.NewuCommand : Prop :=
  ∀ (s : State) (d : Nat) (off len : Word), d < 16 →
    decode ⟨0x00000002#32 ||| BitVec.ofNat 32 d <<< 8, off, len⟩ = .ok (.newu d off len) ∧
    BadFieldsFail s 0x2 0xFFFFF0FF 0x00000002 ∧
    (s.cfg.nAcc ≤ d → FailsWith s (.newu d off len) 4) ∧
    (d < s.cfg.nAcc → s.cfg.bufSize < off.toNat + len.toNat → FailsWith s (.newu d off len) 1) ∧
    (d < s.cfg.nAcc → off.toNat + len.toNat ≤ s.cfg.bufSize →
      ∃ t, exec (.newu d off len) s = .next t ∧ t.readAcc d = s.fold 0xFFFFFFFFFFFFFFFF off.toNat len.toNat ∧
        t.readValid d = true ∧ Completed t 0 ∧ t.result = s.result ∧ (∀ j, j ≠ d → SameSlot s t j) ∧
        SameOutside s t)

/-- R89: UPDATE. -/
def Obligations.UpdateCommand : Prop :=
  ∀ (s : State) (d : Nat) (off len : Word), d < 16 →
    decode ⟨0x00000003#32 ||| BitVec.ofNat 32 d <<< 8, off, len⟩ = .ok (.update d off len) ∧
    BadFieldsFail s 0x3 0xFFFFF0FF 0x00000003 ∧
    (s.cfg.nAcc ≤ d → FailsWith s (.update d off len) 4) ∧
    (d < s.cfg.nAcc → s.readValid d = false → FailsWith s (.update d off len) 5) ∧
    (d < s.cfg.nAcc → s.readValid d = true → s.cfg.bufSize < off.toNat + len.toNat →
      FailsWith s (.update d off len) 1) ∧
    (d < s.cfg.nAcc → s.readValid d = true → off.toNat + len.toNat ≤ s.cfg.bufSize →
      ∃ t, exec (.update d off len) s = .next t ∧ t.readAcc d = s.fold (s.readAcc d) off.toNat len.toNat ∧
        t.readValid d = true ∧ Completed t 0 ∧ t.result = s.result ∧ (∀ j, j ≠ d → SameSlot s t j) ∧
        SameOutside s t)

/-- R94, R95: RESET. A slot with VALID = 0 is created. -/
def Obligations.ResetCommand : Prop :=
  ∀ (s : State) (d : Nat) (x y : Word), d < 16 →
    decode ⟨0x00000004#32 ||| BitVec.ofNat 32 d <<< 8, x, y⟩ = .ok (.reset d) ∧
    BadFieldsFail s 0x4 0xFFFFF0FF 0x00000004 ∧
    (s.cfg.nAcc ≤ d → FailsWith s (.reset d) 4) ∧
    (d < s.cfg.nAcc →
      ∃ t, exec (.reset d) s = .next t ∧ t.readAcc d = 0xFFFFFFFFFFFFFFFF ∧ t.external d = 0 ∧ t.readValid d = true ∧
        Completed t 0 ∧ t.result = s.result ∧ (∀ j, j ≠ d → SameSlot s t j) ∧ SameOutside s t)

/-- R98: GETVAL. No slot changes. -/
def Obligations.GetvalCommand : Prop :=
  ∀ (s : State) (d : Nat) (x y : Word), d < 16 →
    decode ⟨0x00000005#32 ||| BitVec.ofNat 32 d <<< 8, x, y⟩ = .ok (.getval d) ∧
    BadFieldsFail s 0x5 0xFFFFF0FF 0x00000005 ∧
    (s.cfg.nAcc ≤ d → FailsWith s (.getval d) 4) ∧
    (d < s.cfg.nAcc → s.readValid d = false → FailsWith s (.getval d) 5) ∧
    (d < s.cfg.nAcc → s.readValid d = true →
      ∃ t, exec (.getval d) s = .next t ∧ t.result = s.readAcc d ^^^ 0xFFFFFFFFFFFFFFFF#64 ∧ Completed t 0 ∧
        (∀ j, SameSlot s t j) ∧ SameOutside s t)

/-- R118, R125: COMBINE. The result is the loop of R118 on external values; the slots a and b are unchanged, being
slots other than d; a = b is allowed. -/
def Obligations.CombineCommand : Prop :=
  ∀ (s : State) (d a b : Nat) (lenB y : Word), d < 16 → a < 16 → b < 16 →
    decode ⟨0x00000006#32 ||| BitVec.ofNat 32 d <<< 8 ||| BitVec.ofNat 32 a <<< 12 ||| BitVec.ofNat 32 b <<< 16, lenB, y⟩ =
      .ok (.combine d a b lenB) ∧
    BadFieldsFail s 0x6 0xFFF000FF 0x00000006 ∧
    (s.cfg.nAcc ≤ d ∨ s.cfg.nAcc ≤ a ∨ s.cfg.nAcc ≤ b → FailsWith s (.combine d a b lenB) 4) ∧
    (d < s.cfg.nAcc → a < s.cfg.nAcc → b < s.cfg.nAcc →
      (s.readValid a = false ∨ s.readValid b = false → FailsWith s (.combine d a b lenB) 5) ∧
      (s.readValid a = true → s.readValid b = true →
        (d = a ∨ d = b → FailsWith s (.combine d a b lenB) 6) ∧
        (d ≠ a → d ≠ b → sint64 lenB < 0 → FailsWith s (.combine d a b lenB) 2) ∧
        (d ≠ a → d ≠ b → 0 ≤ sint64 lenB →
          ∃ t, exec (.combine d a b lenB) s = .next t ∧
            t.external d = combineValue (s.external a) (s.external b) (sint64 lenB).toNat ∧ t.readValid d = true ∧
            Completed t 0 ∧ t.result = s.result ∧ (∀ j, j ≠ d → SameSlot s t j) ∧ SameOutside s t)))

/-! Rules about several commands (41_accumulator.md, 20_memory.md). -/

/-- R84: NEW and RESET have the same effect on every state, for every slot index. -/
def Obligations.NewEqualsReset : Prop :=
  ∀ (s : State) (d : Nat), exec (.new d) s = exec (.reset d) s

/-- R88: in range, NEWU leaves the state that NEW and then UPDATE leave. -/
def Obligations.NewuIsNewThenUpdate : Prop :=
  ∀ (s : State) (d : Nat) (off len : Word), s.cfg.Ok → d < s.cfg.nAcc → off.toNat + len.toNat ≤ s.cfg.bufSize →
    ∃ u t, exec (.new d) s = .next u ∧ exec (.update d off len) u = .next t ∧ exec (.newu d off len) s = .next t

/-- R47: in range exactly when X + Y ≤ BUF_SIZE on unbounded integers; out of range fails with ERR_RANGE (code 1) and
changes nothing else, also for Y = 0; a zero-length UPDATE in range leaves everything but ERR and BUSY. -/
def Obligations.RangeCheck : Prop :=
  ∀ (s : State) (d : Nat) (off len : Word), s.cfg.Ok → d < s.cfg.nAcc →
    (s.cfg.bufSize < off.toNat + len.toNat →
      FailsWith s (.newu d off len) 1 ∧ (s.readValid d = true → FailsWith s (.update d off len) 1)) ∧
    (off.toNat + len.toNat ≤ s.cfg.bufSize →
      (∃ t, exec (.newu d off len) s = .next t ∧ t.err = 0) ∧
      (s.readValid d = true → ∃ t, exec (.update d off len) s = .next t ∧ t.err = 0)) ∧
    (off.toNat ≤ s.cfg.bufSize → s.readValid d = true →
      exec (.update d off 0) s = .next { s with err := 0, inFlight := none })

/-! GF(2) matrices and COMBINE (42_combine.md). -/

/-- R108: output bit i of apply(M, v) is parity(M[i] & v); apply(S, v) = shift1(v); apply(S, 1) = POLY. -/
def Obligations.MatrixAppliedToVector : Prop :=
  (∀ (M : Matrix64) (v : Word) (i : Fin 64), (applyMatrix M v).getLsbD i = parity (M[i] &&& v)) ∧
  (∀ v : Word, applyMatrix matrixS v = shift1 v) ∧
  applyMatrix matrixS 1 = 0xC96C5795D7870F42

/-- R109: row i of mul(A, B) is the XOR of the rows of B that A[i] selects, and mul(A, B) is first B, then A. -/
def Obligations.MatrixProduct : Prop :=
  ∀ (A B : Matrix64) (v : Word),
    (∀ i : Fin 64, (mulMatrix A B)[i] =
      ((List.finRange 64).filter fun j => A[i].getLsbD j.val).foldl (fun r j => r ^^^ B[j]) 0) ∧
    applyMatrix (mulMatrix A B) v = applyMatrix A (applyMatrix B v)

/-- R110: k squarings of S shift by 2^k bits, and the powers of S commute. -/
def Obligations.SquaringsOfS : Prop :=
  (∀ (k : Nat) (v : Word), applyMatrix (sqMatrix^[k] matrixS) v = shiftBits (2 ^ k) v) ∧
  (∀ (j k : Nat) (v : Word),
    applyMatrix (powMatrix matrixS j) (applyMatrix (powMatrix matrixS k) v) =
      applyMatrix (powMatrix matrixS k) (applyMatrix (powMatrix matrixS j) v))

/-- R113: Z = S^8 is the fold step with byte 0; two of its rows. -/
def Obligations.ZeroByteOperator : Prop :=
  (∀ v : Word, applyMatrix matrixZ v = applyMatrix (powMatrix matrixS 8) v) ∧
  (∀ r : Word, applyMatrix matrixZ r = gen (r.setWidth 8) ^^^ (r >>> 8)) ∧
  matrixZ[0] = 0x157 ∧ matrixZ[63] = 0xAB

/-- R114: Z^0 is the identity, Z^n = S^(8n), and Z has a finite multiplicative order, so Z^n is periodic in n. -/
def Obligations.PowersOfZ : Prop :=
  (∀ v : Word, applyMatrix (powMatrix matrixZ 0) v = v) ∧
  (∀ (n : Nat) (v : Word), applyMatrix (powMatrix matrixZ n) v = applyMatrix (powMatrix matrixS (8 * n)) v) ∧
  (∃ k, 0 < k ∧ ∀ (n : Nat) (v : Word),
    applyMatrix (powMatrix matrixZ (n + k)) v = applyMatrix (powMatrix matrixZ n) v)

/-- R124: the three definitions of the combined value give the same c for every input: the loop of R118, the power
Z^lenB, and lenB zero-byte steps. -/
def Obligations.CombineDefinitionsAgree : Prop :=
  ∀ (cA cB : Word) (lenB : Nat),
    combineValue cA cB lenB = (if lenB = 0 then cA else applyMatrix (powMatrix matrixZ lenB) cA ^^^ cB) ∧
    (0 < lenB → combineValue cA cB lenB = zshift cA lenB ^^^ cB)

/-- R120: COMBINE of the CRCs of two adjacent byte strings gives the CRC of their concatenation, whatever their
lengths, zero among them. -/
def Obligations.CombineIsConcatenation : Prop :=
  (∀ P Q : List Byte, combineValue (crcOf P) (crcOf Q) Q.length = crcOf (P ++ Q)) ∧
  (∀ (s : State) (P Q : List Byte) (d a b : Nat) (lenB : Word), s.cfg.Ok → d < s.cfg.nAcc → a < s.cfg.nAcc →
    b < s.cfg.nAcc → s.readValid a = true → s.readValid b = true → d ≠ a → d ≠ b → lenB.getLsbD 63 = false →
    lenB.toNat = Q.length → s.external a = crcOf P → s.external b = crcOf Q →
    ∃ t, exec (.combine d a b lenB) s = .next t ∧ t.external d = crcOf (P ++ Q))

/-- R119: with lenB = 0 the result is cA, whatever cB is, and the checks of INDEX, UNINIT and ALIAS still apply to b. -/
def Obligations.CombineZeroLength : Prop :=
  ∀ (s : State) (d a b : Nat), s.cfg.Ok → d < s.cfg.nAcc → a < s.cfg.nAcc → s.readValid a = true → d ≠ a →
    (s.cfg.nAcc ≤ b → FailsWith s (.combine d a b 0) 4) ∧
    (b < s.cfg.nAcc → s.readValid b = false → FailsWith s (.combine d a b 0) 5) ∧
    (b < s.cfg.nAcc → s.readValid b = true → d = b → FailsWith s (.combine d a b 0) 6) ∧
    (b < s.cfg.nAcc → s.readValid b = true → d ≠ b →
      ∃ t, exec (.combine d a b 0) s = .next t ∧ t.external d = s.external a)

/-- R122, R123: X[63] = 1 is negative and fails with ERR_LENGTH (code 2), nothing else changed; every lenB from 0 to
2^63-1 is computed exactly as Z^lenB. -/
def Obligations.CombineLengths : Prop :=
  ∀ (s : State) (d a b : Nat) (x : Word), s.cfg.Ok → d < s.cfg.nAcc → a < s.cfg.nAcc → b < s.cfg.nAcc →
    s.readValid a = true → s.readValid b = true → d ≠ a → d ≠ b →
    (x.getLsbD 63 = true → sint64 x = (x.toNat : Int) - 2 ^ 64 ∧ sint64 x < 0 ∧ FailsWith s (.combine d a b x) 2) ∧
    (x.getLsbD 63 = false →
      ∃ t, exec (.combine d a b x) s = .next t ∧ t.err = 0 ∧
        t.external d =
          if x = 0 then s.external a
          else applyMatrix (powMatrix matrixZ x.toNat) (s.external a) ^^^ s.external b)

/-! Errors (60_exceptions.md). -/

/-- R134: the first failing check decides, in the order ILLEGAL, INDEX, UNINIT, ALIAS, LENGTH, RANGE; a failing command
changes STATUS.ERR alone (and BUSY returns to 0), and one that passes runs its body and ends with OK. -/
def Obligations.CheckOrder : Prop :=
  ∀ (c : Command) (s : State),
    (checkCode c s ≠ .ok → runCommand c s = .next { s with err := (checkCode c s).code, inFlight := none }) ∧
    (checkCode c s = .ok →
      ∃ i t, decode c = .ok i ∧ exec i s = .next t ∧ runCommand c s = .next t ∧ Completed t 0)

/-- R27: every completed command writes STATUS.ERR with one of the codes 0 to 6, OK on success; so does hardware reset. -/
def Obligations.EveryCommandWritesErr : Prop :=
  (∀ (c : Command) (s : State), ∃ t, runCommand c s = .next t ∧ Completed t (checkCode c s).code ∧
    t.err.toNat ≤ 6) ∧
  ErrCode.code .ok = 0 ∧ ErrCode.code .errRange = 1 ∧ ErrCode.code .errLength = 2 ∧ ErrCode.code .errIllegal = 3 ∧
  ErrCode.code .errIndex = 4 ∧ ErrCode.code .errUninit = 5 ∧ ErrCode.code .errAlias = 6 ∧
  (∀ s : State, s.hardReset.err = 0)

/-- R126: a command that fails changes nothing but STATUS.ERR (and BUSY returns to 0), and CORE does not stop: the port
is open again. -/
def Obligations.ErrorsChangeNothingElse : Prop :=
  ∀ (c : Command) (s t : State), runCommand c s = .next t → t.err ≠ 0 →
    t = { s with err := t.err, inFlight := none } ∧ (s.tableReady = true → t.portOpen = true)

/-- R133: the codes each command can report. -/
def Obligations.CodesByCommand : Prop :=
  ∀ (i : Instr) (s t : State), exec i s = .next t →
    t.err.toNat ∈ (match i with
      | .new _ => [0, 4]
      | .newu _ _ _ => [0, 4, 1]
      | .update _ _ _ => [0, 4, 5, 1]
      | .reset _ => [0, 4]
      | .getval _ => [0, 4, 5]
      | .combine _ _ _ _ => [0, 4, 5, 6, 2])

/-! What commands and steps leave alone (10_state.md, 20_memory.md). -/

/-- R24: a command writes the accumulator file in its own slot d only; GETVAL and every failing command write none of it;
no command clears a VALID bit. -/
def Obligations.AccumulatorFileWriters : Prop :=
  ∀ (i : Instr) (s t : State), exec i s = .next t →
    (∀ j, j ≠ dest i → SameSlot s t j) ∧
    ((t.err ≠ 0 ∨ i = .getval (dest i)) → ∀ j, SameSlot s t j) ∧
    (∀ j, s.readValid j = true → t.readValid j = true)

/-- R18, R41, R42: no command writes BUF, TABLE, TABLE_READY or anything else outside the accumulator file, STATUS and
RESULT. -/
def Obligations.CommandsTouchNothingElse : Prop :=
  ∀ (i : Instr) (s t : State), exec i s = .next t → SameOutside s t

/-- R21: a VALID bit is cleared by hardware reset alone, and set only by a command that names the slot as d. -/
def Obligations.ValidBitWriters : Prop :=
  ∀ (s t : State) (j : Nat), step s = .next t →
    (s.readValid j = true → t.readValid j = false → s.HostTakes .hardReset) ∧
    (s.readValid j = false → t.readValid j = true →
      ∃ c i, s.agent = .engine ∧ s.inFlight = some c ∧ decode c = .ok i ∧ dest i = j ∧ t.err = 0)

/-- R29: only a successful GETVAL writes RESULT, with the external value of its slot; hardware reset sets it to 0. -/
def Obligations.ResultWriters : Prop :=
  (∀ s t : State, step s = .next t → t.result ≠ s.result →
    (∃ c d, s.agent = .engine ∧ s.inFlight = some c ∧ decode c = .ok (.getval d) ∧ t.err = 0 ∧
      t.result = s.external d) ∨
    (s.HostTakes .hardReset ∧ t.result = 0)) ∧
  (∀ s : State, s.hardReset.result = 0)

/-- R33, R139: no command reads STATUS.ERR, so its behaviour never depends on the outcome of the one before. -/
def Obligations.NoDependenceOnOutcome : Prop :=
  ∀ (c : Command) (s : State) (e : BitVec 4), runCommand c { s with err := e } = runCommand c s

/-- R21: what ACC holds where VALID = 0 is not observable: with any other value there, every command gives the same code,
RESULT and VALID bits, and the same register in every slot that is valid after it. -/
def Obligations.InvalidSlotUnobservable : Prop :=
  ∀ (c : Command) (s t : State) (j : Nat) (v : Word), s.readValid j = false → runCommand c s = .next t →
    ∃ u, runCommand c (s.writeAcc j v) = .next u ∧ u.err = t.err ∧ u.result = t.result ∧ u.valid = t.valid ∧
      (∀ k, t.readValid k = true → u.readAcc k = t.readAcc k)

/-! The host and the port (10_state.md, 70_reset_and_hazards.md). -/

/-- R31: the port accepts a command exactly when BUSY = 0 and TABLE_READY = 1, at once or, if it came at another time,
from the port that held it; else it is held, and stays so. Acceptance changes nothing but the command in flight, so
BUSY; and commands are accepted in the order the host issues them: a held one is not overtaken. That a held command is
accepted on a turn of the port's own is the model's schedule (log entry 8), and the waiting behind it is log entry 9. -/
def Obligations.CommandAcceptance : Prop :=
  ∀ (s : State) (ts : List Agent) (c : Command) (rest : List HostAct),
    (s.turns = .host :: ts → s.moves = .move (.issue c) :: rest →
      (s.held = none → s.busy = false → s.tableReady = true →
        step s = .next { s with turns := ts, moves := rest, inFlight := some c }) ∧
      (s.held = none → s.busy = true ∨ s.tableReady = false →
        step s = .next { s with turns := ts, moves := rest, held := some (.issue c) }) ∧
      (∀ c', s.held = some (.issue c') → step s = .next { s with turns := ts })) ∧
    (s.turns = .port :: ts → s.held = some (.issue c) →
      (s.busy = false → s.tableReady = true →
        step s = .next { s with turns := ts, held := none, inFlight := some c }) ∧
      (s.busy = true ∨ s.tableReady = false → step s = .next { s with turns := ts }))

/-- R156: acceptance and completion in a row are one atomic command: on the default schedule two steps from an open port
give what the command gives on the state before, with the host's move used. -/
def Obligations.AcceptThenComplete : Prop :=
  ∀ (s : State) (c : Command) (rest : List HostAct),
    s.turns = [] → s.held = none → s.moves = .move (.issue c) :: rest → s.busy = false → s.tableReady = true →
    ∃ u t, step s = .next u ∧ u.busy = true ∧ step u = .next t ∧
      runCommand c { s with moves := rest } = .next t ∧ t.busy = false

/-- R154: a held move is never lost or failed: it stays, over a hardware reset too, until the step in which it is
enabled and takes effect; and there is no queue: while the port holds a move, the host's next command waits, and so does
its next BUF write if BUSY = 1 or the held move is a BUF write. That a held move stays over a hardware reset, and that a
command waits behind a held BUF write, are the model's (log entry 9). -/
def Obligations.HeldMoveNeverLost : Prop :=
  (∀ (s t : State) (h : HostMove), s.held = some h → step s = .next t →
    t.held = some h ∨
    (s.enabled h = true ∧ s.HostTakes h ∧ t.held = none)) ∧
  (∀ (s : State) (ts : List Agent) (h m : HostMove) (rest : List HostAct), s.turns = .host :: ts →
    s.held = some h → s.moves = .move m :: rest → m.holdable = true →
    ((∃ c, m = .issue c) ∨ s.busy = true ∨ (∃ addr v, h = .writeBuf addr v)) →
    step s = .next { s with turns := ts })

/-- R152, R150: a host write takes effect at once while BUSY = 0, a held command or not, sets BUF[addr] and changes
nothing else; no other step writes BUF, but that hardware reset (R146) leaves every byte unspecified, which in the model is
the empty list of written bytes (log entry 3). -/
def Obligations.HostWritesBuf : Prop :=
  (∀ (s : State) (ts : List Agent) (addr : Nat) (v : Byte) (rest : List HostAct),
    s.turns = .host :: ts → (s.held = none ∨ ∃ c, s.held = some (.issue c)) →
    s.moves = .move (.writeBuf addr v) :: rest → s.busy = false → addr < s.cfg.bufSize →
    ∃ t, step s = .next t ∧ t.bufRead addr = v ∧ (∀ b, b ≠ addr → t.bufRead b = s.bufRead b) ∧ t.acc = s.acc ∧
      t.valid = s.valid ∧ t.err = s.err ∧ t.result = s.result ∧ t.table = s.table ∧ t.tableReady = s.tableReady ∧
      t.inFlight = s.inFlight ∧ t.held = s.held ∧ t.moves = rest ∧ t.cfg = s.cfg) ∧
  (∀ s t : State, step s = .next t → t.buf ≠ s.buf →
    (∃ addr v, s.HostTakes (.writeBuf addr v) ∧ addr < s.cfg.bufSize ∧ t.buf = s.buf.store addr v) ∨
    (s.HostTakes .hardReset ∧ t.buf = []))

/-- R153: a BUF write offered while BUSY = 1 is held, stays so while the command is in flight, and takes effect after
it, on a turn of the port (log entries 8, 9), whatever the host does next. -/
def Obligations.BufWriteHeldWhileBusy : Prop :=
  ∀ (s : State) (ts : List Agent) (addr : Nat) (v : Byte),
    (∀ rest, s.turns = .host :: ts → s.busy = true → s.held = none → s.moves = .move (.writeBuf addr v) :: rest →
      step s = .next { s with turns := ts, held := some (.writeBuf addr v), moves := rest }) ∧
    (s.turns = .port :: ts → s.held = some (.writeBuf addr v) →
      (s.busy = true → step s = .next { s with turns := ts }) ∧
      (s.busy = false → addr < s.cfg.bufSize →
        ∃ t, step s = .next t ∧ t.bufRead addr = v ∧ (∀ b, b ≠ addr → t.bufRead b = s.bufRead b) ∧ t.held = none ∧
          t.moves = s.moves ∧ t.acc = s.acc ∧ t.valid = s.valid ∧ t.err = s.err ∧ t.result = s.result ∧
          t.inFlight = s.inFlight ∧ t.tableReady = s.tableReady))

/-- R28, R153: while a command is in flight its values stand still: every step leaves ACC, VALID, BUF, ERR and RESULT as
they were and BUSY at 1, until the step that completes it, in which all its writes take effect and BUSY returns to 0, or
a hardware reset abandons it. -/
def Obligations.CommandInFlight : Prop :=
  ∀ (s t : State) (c : Command), s.inFlight = some c → step s = .next t →
    (t.inFlight = some c ∧ t.busy = true ∧ SameRegisters s t) ∨
    (s.agent = .engine ∧ runCommand c s.popTurn = .next t ∧ t.busy = false) ∨
    (s.HostTakes .hardReset ∧ t.inFlight = none ∧ t.busy = false)

/-- R26, R30, R150: a read of STATUS or RESULT is always enabled, whatever CORE does and whatever the port holds; it gives
the host the register's value and changes nothing of CORE's. -/
def Obligations.HostReadsRegister : Prop :=
  ∀ (s : State) (ts : List Agent) (r : HostReg) (rest : List HostAct),
    s.turns = .host :: ts → s.moves = .move (.read r) :: rest →
    step s = .next { s with turns := ts, moves := rest, seen := s.readReg r :: s.seen } ∧
    (s.readReg .result = .result s.result) ∧
    (∃ w : BitVec 32, s.readReg .status = .status w ∧ w.getLsbD 0 = s.busy ∧ w.getLsbD 1 = s.tableReady ∧
      w.extractLsb' 2 2 = 0 ∧ w.extractLsb' 4 4 = s.err ∧ w.extractLsb' 8 24 = 0)

/-- R66, R155: WAIT keeps the host where it is while BUSY = 1, or while the port holds a move (log entry 9), and then
lets it go on, CORE unchanged. So a GETVAL, a WAIT and a read of RESULT give the host the external value of the GETVAL's
slot and never an older RESULT, on every schedule, from a CORE with no command in flight and nothing held. -/
def Obligations.WaitBeforeRead : Prop :=
  (∀ (s : State) (ts : List Agent) (rest : List HostAct), s.turns = .host :: ts → s.moves = .wait :: rest →
    ((s.busy = true ∨ s.held ≠ none) → step s = .next { s with turns := ts }) ∧
    (s.busy = false → s.held = none → step s = .next { s with turns := ts, moves := rest })) ∧
  (∀ (s t : State) (c : Command) (d n : Nat), s.inFlight = none → s.held = none → decode c = .ok (.getval d) →
    d < s.cfg.nAcc → s.readValid d = true → s.moves = [.move (.issue c), .wait, .move (.read .result)] →
    core.run n s = .next t →
    t.seen = if t.moves = [] then .result (s.external d) :: s.seen else s.seen)

/-! The step. -/

/-- When the command in flight decodes to an instruction and the engine moves, a step is `exec` of it, on the state with
the schedule's first turn used. -/
def Obligations.StepRunsDecoded : Prop :=
  ∀ (s : State) (c : Command) (i : Instr), s.agent = .engine → s.inFlight = some c → decode c = .ok i →
    step s = exec i s.popTurn

/-- An instruction placed by `withFetchWord` is what the very next step runs (log entry 11). -/
def Obligations.FetchWordRunsNext : Prop :=
  ∀ (s : State) (nbits w : Nat) (i : Instr), decodeTableWord nbits w = some i →
    step (s.withFetchWord nbits w) =
      exec i { s.generatorStep with inFlight := some (Command.ofTableWord nbits w) }

/-- R160: fairness of the default schedule (the model's own, log entry 8): named turns run out, and with none left the
generator takes its step while TABLE_READY = 0, then a command in flight completes, and then a held move takes effect. -/
def Obligations.AgentsMakeProgress : Prop :=
  (∀ s t : State, core.run s.turns.length s = .next t → t.turns = []) ∧
  (∀ s : State, s.turns = [] → s.tableReady = false →
    ∃ t, step s = .next t ∧ t.tableReady = true ∧ t.turns = [] ∧ t.inFlight = s.inFlight) ∧
  (∀ (s : State) (c : Command), s.turns = [] → s.tableReady = true → s.inFlight = some c →
    ∃ t, step s = .next t ∧ runCommand c s = .next t ∧ t.busy = false) ∧
  (∀ (s : State) (h : HostMove), s.turns = [] → s.tableReady = true → s.inFlight = none → s.held = some h →
    s.HostTakes h)

/-- R126, R150: no command and no error stops CORE: while every BUF write the host makes names an address of BUF, every
step answers a next state, for which the same holds. -/
def Obligations.MachineNeverStops : Prop :=
  ∀ s : State, s.MovesExist → ∃ t, step s = .next t ∧ t.MovesExist

/-- R150: the only stop is the host's write to an address that is not of BUF, and nothing is refused (log entry 10: the
fault is the model's name for a move the spec says does not exist). -/
def Obligations.OnlyBadWriteStops : Prop :=
  ∀ s : State,
    (∀ f, step s = .fault f →
      ∃ addr v, s.HostTakes (.writeBuf addr v) ∧ s.cfg.bufSize ≤ addr ∧ f = .bufAddress addr) ∧
    (∀ r, step s ≠ .refused r)
end

