-- ==== Sys2Proof/Laws/PerInstr.lean ====
section
/-! SUPPORT. Statements made for each constructor of Instr: the command word the encoder gives is in the instruction's
own row of R60's table. -/

namespace Sys2Proof.Laws

/-- The cw of every command word of the encoder, under the mask of its row. -/
theorem cmdWord_and_single (op : BitVec 4) (d : Nat) : cmdWord op d 0 0 &&& 0xFFFFF0FF#32 = cmdWord op 0 0 0 := by
  unfold cmdWord slotField
  generalize BitVec.ofNat 4 d = x
  apply BitVec.eq_of_getLsbD_eq
  intro i hi
  interval_cases i <;> simp

theorem cmdWord_and_combine (op : BitVec 4) (d a b : Nat) : cmdWord op d a b &&& 0xFFF000FF#32 = cmdWord op 0 0 0 := by
  unfold cmdWord slotField
  generalize BitVec.ofNat 4 d = x
  generalize BitVec.ofNat 4 a = y
  generalize BitVec.ofNat 4 b = z
  apply BitVec.eq_of_getLsbD_eq
  intro i hi
  interval_cases i <;> simp

namespace EncodedRow

/-- The row of the instruction's mnemonic accepts the word the encoder gives it. -/
def Statement (i : Instr) : Prop :=
  ∃ r ∈ opcodeRows, r.mnemonic = i.mnemonic ∧ r.accepts (encode i).cw = true

theorem new (d : Nat) : Statement (.new d) :=
  ⟨⟨"NEW", 0xFFFFF0FF, 0x00000001⟩, by simp [opcodeRows], rfl,
    beq_iff_eq.2 ((cmdWord_and_single _ d).trans (by decide))⟩

theorem newu (d : Nat) (off len : Word) : Statement (.newu d off len) :=
  ⟨⟨"NEWU", 0xFFFFF0FF, 0x00000002⟩, by simp [opcodeRows], rfl,
    beq_iff_eq.2 ((cmdWord_and_single _ d).trans (by decide))⟩

theorem update (d : Nat) (off len : Word) : Statement (.update d off len) :=
  ⟨⟨"UPDATE", 0xFFFFF0FF, 0x00000003⟩, by simp [opcodeRows], rfl,
    beq_iff_eq.2 ((cmdWord_and_single _ d).trans (by decide))⟩

theorem reset (d : Nat) : Statement (.reset d) :=
  ⟨⟨"RESET", 0xFFFFF0FF, 0x00000004⟩, by simp [opcodeRows], rfl,
    beq_iff_eq.2 ((cmdWord_and_single _ d).trans (by decide))⟩

theorem getval (d : Nat) : Statement (.getval d) :=
  ⟨⟨"GETVAL", 0xFFFFF0FF, 0x00000005⟩, by simp [opcodeRows], rfl,
    beq_iff_eq.2 ((cmdWord_and_single _ d).trans (by decide))⟩

theorem combine (d a b : Nat) (lenB : Word) : Statement (.combine d a b lenB) :=
  ⟨⟨"COMBINE", 0xFFF000FF, 0x00000006⟩, by simp [opcodeRows], rfl,
    beq_iff_eq.2 ((cmdWord_and_combine _ d a b).trans (by decide))⟩

end EncodedRow

end Sys2Proof.Laws
end

