-- ==== Sys2Proof/Laws/Decode.lean ====
section
/-! SUPPORT. The fields of an encoded command word, one lemma each, and the shape of every decoded instruction. -/

namespace Sys2Proof.Laws

theorem fieldD_lt (cw : CmdWord) : fieldD cw < 16 := BitVec.isLt _
theorem fieldA_lt (cw : CmdWord) : fieldA cw < 16 := BitVec.isLt _
theorem fieldB_lt (cw : CmdWord) : fieldB cw < 16 := BitVec.isLt _

theorem fieldOp_cmdWord (op : BitVec 4) (d a b : Nat) : fieldOp (cmdWord op d a b) = op := by
  unfold fieldOp cmdWord slotField
  apply BitVec.eq_of_getLsbD_eq; intro i hi; interval_cases i <;> simp

theorem fieldRes0_cmdWord (op : BitVec 4) (d a b : Nat) : fieldRes0 (cmdWord op d a b) = 0 := by
  unfold fieldRes0 cmdWord slotField
  apply BitVec.eq_of_getLsbD_eq; intro i hi; interval_cases i <;> simp

theorem fieldRes1_cmdWord (op : BitVec 4) (d a b : Nat) : fieldRes1 (cmdWord op d a b) = 0 := by
  unfold fieldRes1 cmdWord slotField
  apply BitVec.eq_of_getLsbD_eq; intro i hi; interval_cases i <;> simp

theorem fieldAB_cmdWord (op : BitVec 4) (d : Nat) : fieldAB (cmdWord op d 0 0) = 0 := by
  unfold fieldAB cmdWord slotField
  apply BitVec.eq_of_getLsbD_eq; intro i hi; interval_cases i <;> simp

theorem fieldD_cmdWord (op : BitVec 4) {d : Nat} (a b : Nat) (h : d < 16) : fieldD (cmdWord op d a b) = d := by
  have : (cmdWord op d a b).extractLsb' 8 4 = BitVec.ofNat 4 d := by
    unfold cmdWord slotField
    generalize BitVec.ofNat 4 d = x
    apply BitVec.eq_of_getLsbD_eq; intro i hi; interval_cases i <;> simp
  unfold fieldD; rw [this]; simp; omega

theorem fieldA_cmdWord (op : BitVec 4) (d : Nat) {a : Nat} (b : Nat) (h : a < 16) : fieldA (cmdWord op d a b) = a := by
  have : (cmdWord op d a b).extractLsb' 12 4 = BitVec.ofNat 4 a := by
    unfold cmdWord slotField
    generalize BitVec.ofNat 4 a = x
    apply BitVec.eq_of_getLsbD_eq; intro i hi; interval_cases i <;> simp
  unfold fieldA; rw [this]; simp; omega

theorem fieldB_cmdWord (op : BitVec 4) (d a : Nat) {b : Nat} (h : b < 16) : fieldB (cmdWord op d a b) = b := by
  have : (cmdWord op d a b).extractLsb' 16 4 = BitVec.ofNat 4 b := by
    unfold cmdWord slotField
    generalize BitVec.ofNat 4 b = x
    apply BitVec.eq_of_getLsbD_eq; intro i hi; interval_cases i <;> simp
  unfold fieldB; rw [this]; simp; omega

/-- Everything `decode` can answer with an instruction, and what the reserved fields then are (R64). -/
theorem decode_ok_cases {c : Command} {i : Instr} (h : decode c = .ok i) :
    fieldRes0 c.cw = 0 ∧ fieldRes1 c.cw = 0 ∧
    ((fieldOp c.cw = 0x6 ∧ i = .combine (fieldD c.cw) (fieldA c.cw) (fieldB c.cw) c.x) ∨
     (fieldAB c.cw = 0 ∧
      ((fieldOp c.cw = 0x1 ∧ i = .new (fieldD c.cw)) ∨ (fieldOp c.cw = 0x2 ∧ i = .newu (fieldD c.cw) c.x c.y) ∨
       (fieldOp c.cw = 0x3 ∧ i = .update (fieldD c.cw) c.x c.y) ∨ (fieldOp c.cw = 0x4 ∧ i = .reset (fieldD c.cw)) ∨
       (fieldOp c.cw = 0x5 ∧ i = .getval (fieldD c.cw))))) := by
  unfold decode at h
  split at h <;> try cases h
  split at h <;> try cases h
  rename_i h0 h1
  refine ⟨by simpa using h0, by simpa using h1, ?_⟩
  split at h
  · rename_i h6; cases h; exact .inl ⟨h6, rfl⟩
  · split at h <;> try cases h
    rename_i hab
    refine .inr ⟨by simpa using hab, ?_⟩
    repeat' (split at h)
    all_goals (try cases h)
    all_goals simp_all

end Sys2Proof.Laws
end

