-- ==== Sys2Proof/Laws/State.lean ====
section
/-! SUPPORT. One lemma for each field and each update of State, so that no proof unfolds a record update. -/

namespace Sys2Proof.Machine

@[simp] theorem State.bufWrite_cfg (s : State) (addr : Nat) (v : Byte) : (s.bufWrite addr v).cfg = s.cfg := rfl
@[simp] theorem State.bufWrite_table (s : State) (addr : Nat) (v : Byte) : (s.bufWrite addr v).table = s.table := rfl
@[simp] theorem State.bufWrite_tableReady (s : State) (addr : Nat) (v : Byte) : (s.bufWrite addr v).tableReady = s.tableReady := rfl
@[simp] theorem State.bufWrite_acc (s : State) (addr : Nat) (v : Byte) : (s.bufWrite addr v).acc = s.acc := rfl
@[simp] theorem State.bufWrite_valid (s : State) (addr : Nat) (v : Byte) : (s.bufWrite addr v).valid = s.valid := rfl
@[simp] theorem State.bufWrite_buf (s : State) (addr : Nat) (v : Byte) : (s.bufWrite addr v).buf = s.buf.store addr v := rfl
@[simp] theorem State.bufWrite_err (s : State) (addr : Nat) (v : Byte) : (s.bufWrite addr v).err = s.err := rfl
@[simp] theorem State.bufWrite_result (s : State) (addr : Nat) (v : Byte) : (s.bufWrite addr v).result = s.result := rfl
@[simp] theorem State.bufWrite_inFlight (s : State) (addr : Nat) (v : Byte) : (s.bufWrite addr v).inFlight = s.inFlight := rfl
@[simp] theorem State.bufWrite_held (s : State) (addr : Nat) (v : Byte) : (s.bufWrite addr v).held = s.held := rfl
@[simp] theorem State.bufWrite_moves (s : State) (addr : Nat) (v : Byte) : (s.bufWrite addr v).moves = s.moves := rfl
@[simp] theorem State.bufWrite_seen (s : State) (addr : Nat) (v : Byte) : (s.bufWrite addr v).seen = s.seen := rfl
@[simp] theorem State.bufWrite_turns (s : State) (addr : Nat) (v : Byte) : (s.bufWrite addr v).turns = s.turns := rfl
@[simp] theorem State.bufWrite_epoch (s : State) (addr : Nat) (v : Byte) : (s.bufWrite addr v).epoch = s.epoch := rfl

@[simp] theorem State.writeAcc_cfg (s : State) (i : Nat) (v : Word) : (s.writeAcc i v).cfg = s.cfg := rfl
@[simp] theorem State.writeAcc_table (s : State) (i : Nat) (v : Word) : (s.writeAcc i v).table = s.table := rfl
@[simp] theorem State.writeAcc_tableReady (s : State) (i : Nat) (v : Word) : (s.writeAcc i v).tableReady = s.tableReady := rfl
@[simp] theorem State.writeAcc_acc (s : State) (i : Nat) (v : Word) : (s.writeAcc i v).acc = s.acc.setIfInBounds i v := rfl
@[simp] theorem State.writeAcc_valid (s : State) (i : Nat) (v : Word) : (s.writeAcc i v).valid = s.valid := rfl
@[simp] theorem State.writeAcc_buf (s : State) (i : Nat) (v : Word) : (s.writeAcc i v).buf = s.buf := rfl
@[simp] theorem State.writeAcc_err (s : State) (i : Nat) (v : Word) : (s.writeAcc i v).err = s.err := rfl
@[simp] theorem State.writeAcc_result (s : State) (i : Nat) (v : Word) : (s.writeAcc i v).result = s.result := rfl
@[simp] theorem State.writeAcc_inFlight (s : State) (i : Nat) (v : Word) : (s.writeAcc i v).inFlight = s.inFlight := rfl
@[simp] theorem State.writeAcc_held (s : State) (i : Nat) (v : Word) : (s.writeAcc i v).held = s.held := rfl
@[simp] theorem State.writeAcc_moves (s : State) (i : Nat) (v : Word) : (s.writeAcc i v).moves = s.moves := rfl
@[simp] theorem State.writeAcc_seen (s : State) (i : Nat) (v : Word) : (s.writeAcc i v).seen = s.seen := rfl
@[simp] theorem State.writeAcc_turns (s : State) (i : Nat) (v : Word) : (s.writeAcc i v).turns = s.turns := rfl
@[simp] theorem State.writeAcc_epoch (s : State) (i : Nat) (v : Word) : (s.writeAcc i v).epoch = s.epoch := rfl

@[simp] theorem State.markValid_cfg (s : State) (i : Nat) : (s.markValid i).cfg = s.cfg := rfl
@[simp] theorem State.markValid_table (s : State) (i : Nat) : (s.markValid i).table = s.table := rfl
@[simp] theorem State.markValid_tableReady (s : State) (i : Nat) : (s.markValid i).tableReady = s.tableReady := rfl
@[simp] theorem State.markValid_acc (s : State) (i : Nat) : (s.markValid i).acc = s.acc := rfl
@[simp] theorem State.markValid_valid (s : State) (i : Nat) : (s.markValid i).valid = s.valid.setIfInBounds i true := rfl
@[simp] theorem State.markValid_buf (s : State) (i : Nat) : (s.markValid i).buf = s.buf := rfl
@[simp] theorem State.markValid_err (s : State) (i : Nat) : (s.markValid i).err = s.err := rfl
@[simp] theorem State.markValid_result (s : State) (i : Nat) : (s.markValid i).result = s.result := rfl
@[simp] theorem State.markValid_inFlight (s : State) (i : Nat) : (s.markValid i).inFlight = s.inFlight := rfl
@[simp] theorem State.markValid_held (s : State) (i : Nat) : (s.markValid i).held = s.held := rfl
@[simp] theorem State.markValid_moves (s : State) (i : Nat) : (s.markValid i).moves = s.moves := rfl
@[simp] theorem State.markValid_seen (s : State) (i : Nat) : (s.markValid i).seen = s.seen := rfl
@[simp] theorem State.markValid_turns (s : State) (i : Nat) : (s.markValid i).turns = s.turns := rfl
@[simp] theorem State.markValid_epoch (s : State) (i : Nat) : (s.markValid i).epoch = s.epoch := rfl

@[simp] theorem State.create_cfg (s : State) (d : Nat) (v : Word) : (s.create d v).cfg = s.cfg := rfl
@[simp] theorem State.create_table (s : State) (d : Nat) (v : Word) : (s.create d v).table = s.table := rfl
@[simp] theorem State.create_tableReady (s : State) (d : Nat) (v : Word) : (s.create d v).tableReady = s.tableReady := rfl
@[simp] theorem State.create_acc (s : State) (d : Nat) (v : Word) : (s.create d v).acc = s.acc.setIfInBounds d v := rfl
@[simp] theorem State.create_valid (s : State) (d : Nat) (v : Word) : (s.create d v).valid = s.valid.setIfInBounds d true := rfl
@[simp] theorem State.create_buf (s : State) (d : Nat) (v : Word) : (s.create d v).buf = s.buf := rfl
@[simp] theorem State.create_err (s : State) (d : Nat) (v : Word) : (s.create d v).err = s.err := rfl
@[simp] theorem State.create_result (s : State) (d : Nat) (v : Word) : (s.create d v).result = s.result := rfl
@[simp] theorem State.create_inFlight (s : State) (d : Nat) (v : Word) : (s.create d v).inFlight = s.inFlight := rfl
@[simp] theorem State.create_held (s : State) (d : Nat) (v : Word) : (s.create d v).held = s.held := rfl
@[simp] theorem State.create_moves (s : State) (d : Nat) (v : Word) : (s.create d v).moves = s.moves := rfl
@[simp] theorem State.create_seen (s : State) (d : Nat) (v : Word) : (s.create d v).seen = s.seen := rfl
@[simp] theorem State.create_turns (s : State) (d : Nat) (v : Word) : (s.create d v).turns = s.turns := rfl
@[simp] theorem State.create_epoch (s : State) (d : Nat) (v : Word) : (s.create d v).epoch = s.epoch := rfl

@[simp] theorem State.complete_cfg (s : State) (e : ErrCode) : (s.complete e).cfg = s.cfg := rfl
@[simp] theorem State.complete_table (s : State) (e : ErrCode) : (s.complete e).table = s.table := rfl
@[simp] theorem State.complete_tableReady (s : State) (e : ErrCode) : (s.complete e).tableReady = s.tableReady := rfl
@[simp] theorem State.complete_acc (s : State) (e : ErrCode) : (s.complete e).acc = s.acc := rfl
@[simp] theorem State.complete_valid (s : State) (e : ErrCode) : (s.complete e).valid = s.valid := rfl
@[simp] theorem State.complete_buf (s : State) (e : ErrCode) : (s.complete e).buf = s.buf := rfl
@[simp] theorem State.complete_err (s : State) (e : ErrCode) : (s.complete e).err = e.code := rfl
@[simp] theorem State.complete_result (s : State) (e : ErrCode) : (s.complete e).result = s.result := rfl
@[simp] theorem State.complete_inFlight (s : State) (e : ErrCode) : (s.complete e).inFlight = none := rfl
@[simp] theorem State.complete_held (s : State) (e : ErrCode) : (s.complete e).held = s.held := rfl
@[simp] theorem State.complete_moves (s : State) (e : ErrCode) : (s.complete e).moves = s.moves := rfl
@[simp] theorem State.complete_seen (s : State) (e : ErrCode) : (s.complete e).seen = s.seen := rfl
@[simp] theorem State.complete_turns (s : State) (e : ErrCode) : (s.complete e).turns = s.turns := rfl
@[simp] theorem State.complete_epoch (s : State) (e : ErrCode) : (s.complete e).epoch = s.epoch := rfl

@[simp] theorem State.raise_cfg (s : State) (e : ErrCode) : (s.raise e).cfg = s.cfg := rfl
@[simp] theorem State.raise_table (s : State) (e : ErrCode) : (s.raise e).table = s.table := rfl
@[simp] theorem State.raise_tableReady (s : State) (e : ErrCode) : (s.raise e).tableReady = s.tableReady := rfl
@[simp] theorem State.raise_acc (s : State) (e : ErrCode) : (s.raise e).acc = s.acc := rfl
@[simp] theorem State.raise_valid (s : State) (e : ErrCode) : (s.raise e).valid = s.valid := rfl
@[simp] theorem State.raise_buf (s : State) (e : ErrCode) : (s.raise e).buf = s.buf := rfl
@[simp] theorem State.raise_err (s : State) (e : ErrCode) : (s.raise e).err = e.code := rfl
@[simp] theorem State.raise_result (s : State) (e : ErrCode) : (s.raise e).result = s.result := rfl
@[simp] theorem State.raise_inFlight (s : State) (e : ErrCode) : (s.raise e).inFlight = none := rfl
@[simp] theorem State.raise_held (s : State) (e : ErrCode) : (s.raise e).held = s.held := rfl
@[simp] theorem State.raise_moves (s : State) (e : ErrCode) : (s.raise e).moves = s.moves := rfl
@[simp] theorem State.raise_seen (s : State) (e : ErrCode) : (s.raise e).seen = s.seen := rfl
@[simp] theorem State.raise_turns (s : State) (e : ErrCode) : (s.raise e).turns = s.turns := rfl
@[simp] theorem State.raise_epoch (s : State) (e : ErrCode) : (s.raise e).epoch = s.epoch := rfl

@[simp] theorem State.popTurn_cfg (s : State) : (s.popTurn).cfg = s.cfg := rfl
@[simp] theorem State.popTurn_table (s : State) : (s.popTurn).table = s.table := rfl
@[simp] theorem State.popTurn_tableReady (s : State) : (s.popTurn).tableReady = s.tableReady := rfl
@[simp] theorem State.popTurn_acc (s : State) : (s.popTurn).acc = s.acc := rfl
@[simp] theorem State.popTurn_valid (s : State) : (s.popTurn).valid = s.valid := rfl
@[simp] theorem State.popTurn_buf (s : State) : (s.popTurn).buf = s.buf := rfl
@[simp] theorem State.popTurn_err (s : State) : (s.popTurn).err = s.err := rfl
@[simp] theorem State.popTurn_result (s : State) : (s.popTurn).result = s.result := rfl
@[simp] theorem State.popTurn_inFlight (s : State) : (s.popTurn).inFlight = s.inFlight := rfl
@[simp] theorem State.popTurn_held (s : State) : (s.popTurn).held = s.held := rfl
@[simp] theorem State.popTurn_moves (s : State) : (s.popTurn).moves = s.moves := rfl
@[simp] theorem State.popTurn_seen (s : State) : (s.popTurn).seen = s.seen := rfl
@[simp] theorem State.popTurn_turns (s : State) : (s.popTurn).turns = s.turns.tail := rfl
@[simp] theorem State.popTurn_epoch (s : State) : (s.popTurn).epoch = s.epoch := rfl

@[simp] theorem State.hardReset_cfg (s : State) : s.hardReset.cfg = s.cfg := rfl
@[simp] theorem State.hardReset_table (s : State) : s.hardReset.table = Vector.replicate 256 0 := rfl
@[simp] theorem State.hardReset_tableReady (s : State) : s.hardReset.tableReady = false := rfl
@[simp] theorem State.hardReset_acc (s : State) : s.hardReset.acc = Vector.replicate 16 0 := rfl
@[simp] theorem State.hardReset_valid (s : State) : s.hardReset.valid = Vector.replicate 16 false := rfl
@[simp] theorem State.hardReset_buf (s : State) : s.hardReset.buf = [] := rfl
@[simp] theorem State.hardReset_err (s : State) : s.hardReset.err = 0 := rfl
@[simp] theorem State.hardReset_result (s : State) : s.hardReset.result = 0 := rfl
@[simp] theorem State.hardReset_inFlight (s : State) : s.hardReset.inFlight = none := rfl
@[simp] theorem State.hardReset_held (s : State) : s.hardReset.held = s.held := rfl
@[simp] theorem State.hardReset_moves (s : State) : s.hardReset.moves = s.moves := rfl
@[simp] theorem State.hardReset_seen (s : State) : s.hardReset.seen = s.seen := rfl
@[simp] theorem State.hardReset_turns (s : State) : s.hardReset.turns = s.turns := rfl
@[simp] theorem State.hardReset_epoch (s : State) : s.hardReset.epoch = s.epoch + 1 := rfl

@[simp] theorem State.generatorStep_cfg (s : State) : s.generatorStep.cfg = s.cfg := by
  unfold State.generatorStep; split <;> rfl
@[simp] theorem State.generatorStep_acc (s : State) : s.generatorStep.acc = s.acc := by
  unfold State.generatorStep; split <;> rfl
@[simp] theorem State.generatorStep_valid (s : State) : s.generatorStep.valid = s.valid := by
  unfold State.generatorStep; split <;> rfl
@[simp] theorem State.generatorStep_buf (s : State) : s.generatorStep.buf = s.buf := by
  unfold State.generatorStep; split <;> rfl
@[simp] theorem State.generatorStep_err (s : State) : s.generatorStep.err = s.err := by
  unfold State.generatorStep; split <;> rfl
@[simp] theorem State.generatorStep_result (s : State) : s.generatorStep.result = s.result := by
  unfold State.generatorStep; split <;> rfl
@[simp] theorem State.generatorStep_inFlight (s : State) : s.generatorStep.inFlight = s.inFlight := by
  unfold State.generatorStep; split <;> rfl
@[simp] theorem State.generatorStep_held (s : State) : s.generatorStep.held = s.held := by
  unfold State.generatorStep; split <;> rfl
@[simp] theorem State.generatorStep_moves (s : State) : s.generatorStep.moves = s.moves := by
  unfold State.generatorStep; split <;> rfl
@[simp] theorem State.generatorStep_seen (s : State) : s.generatorStep.seen = s.seen := by
  unfold State.generatorStep; split <;> rfl
@[simp] theorem State.generatorStep_turns (s : State) : s.generatorStep.turns = s.turns := by
  unfold State.generatorStep; split <;> rfl
@[simp] theorem State.generatorStep_epoch (s : State) : s.generatorStep.epoch = s.epoch := by
  unfold State.generatorStep; split <;> rfl
@[simp] theorem State.generatorStep_tableReady (s : State) : s.generatorStep.tableReady = true := by
  unfold State.generatorStep; split <;> simp_all

theorem State.generatorStep_of_ready {s : State} (h : s.tableReady = true) : s.generatorStep = s := by
  simp [State.generatorStep, h]

theorem State.generatorStep_of_not_ready {s : State} (h : s.tableReady = false) :
    s.generatorStep = { s with table := genTable, tableReady := true } := by
  simp [State.generatorStep, h]

end Sys2Proof.Machine
end

