-- ==== Sys2Proof/Laws/Ops.lean ====
section
/-! SUPPORT. The laws of the shared operations: the accumulator file, the checks, and the completion of a command. -/

namespace Sys2Proof.Machine

/-! The accumulator file. -/

theorem State.readAcc_eq_getD (s : State) (i : Nat) : s.readAcc i = s.acc.getD i 0 := rfl

theorem getD_setIfInBounds_same {α : Type} {n : Nat} (xs : Vector α n) {i : Nat} (h : i < n) (v z : α) :
    (xs.setIfInBounds i v).getD i z = v := by
  simp [Vector.getD, h]

theorem getD_setIfInBounds_other {α : Type} {n : Nat} (xs : Vector α n) {i j : Nat} (h : j ≠ i) (v z : α) :
    (xs.setIfInBounds i v).getD j z = xs.getD j z := by
  simp [Vector.getD, Array.getD_eq_getD_getElem?, h.symm]

theorem State.readAcc_create_same (s : State) {d : Nat} (h : d < 16) (v : Word) : (s.create d v).readAcc d = v :=
  getD_setIfInBounds_same s.acc h v 0

theorem State.readAcc_create_other (s : State) {d j : Nat} (h : j ≠ d) (v : Word) :
    (s.create d v).readAcc j = s.readAcc j :=
  getD_setIfInBounds_other s.acc h v 0

theorem State.readValid_create_same (s : State) {d : Nat} (h : d < 16) (v : Word) :
    (s.create d v).readValid d = true :=
  getD_setIfInBounds_same s.valid h true false

theorem State.readValid_create_other (s : State) {d j : Nat} (h : j ≠ d) (v : Word) :
    (s.create d v).readValid j = s.readValid j :=
  getD_setIfInBounds_other s.valid h true false

theorem State.readAcc_writeAcc_same (s : State) {d : Nat} (h : d < 16) (v : Word) : (s.writeAcc d v).readAcc d = v :=
  getD_setIfInBounds_same s.acc h v 0

theorem State.readAcc_writeAcc_other (s : State) {d j : Nat} (h : j ≠ d) (v : Word) :
    (s.writeAcc d v).readAcc j = s.readAcc j :=
  getD_setIfInBounds_other s.acc h v 0

/-- A place that exists in the vector but not in the file of 16 slots holds no accumulator. -/
theorem State.readValid_lt {s : State} {i : Nat} (h : s.readValid i = true) : i < 16 := by
  by_contra hn
  simp [State.readValid, Vector.getD, hn] at h

/-- After hardware reset no slot holds an accumulator (R37). -/
theorem State.readValid_hardReset (s : State) (i : Nat) : s.hardReset.readValid i = false := by
  show (Vector.replicate 16 false).getD i false = false
  by_cases h : i < 16 <;> simp [Vector.getD, h]

/-! The fold. -/

/-- A fold reads TABLE and BUF only: a state with the same table, bytes and draws gives the same fold. -/
theorem State.fold_frame {s t : State} (ht : t.table = s.table) (hb : t.buf = s.buf) (he : t.epoch = s.epoch)
    (r : Word) (off len : Nat) : t.fold r off len = s.fold r off len := by
  induction len generalizing r off with
  | zero => rfl
  | succ n ih => simp only [State.fold, ih, State.crcStep, State.tableEntry, State.bufRead, ht, hb, he]

theorem State.fold_zero (s : State) (r : Word) (off : Nat) : s.fold r off 0 = r := rfl

theorem State.fold_succ (s : State) (r : Word) (off len : Nat) :
    s.fold r off (len + 1) = s.fold (s.crcStep r (s.bufRead off)) (off + 1) len := rfl

/-! The checks and the completion. -/

theorem firstError_cons_false (e : ErrCode) (rest : List (Bool × ErrCode)) :
    firstError ((false, e) :: rest) = firstError rest := rfl

theorem firstError_cons_true (e : ErrCode) (rest : List (Bool × ErrCode)) : firstError ((true, e) :: rest) = e := rfl

theorem State.noSlot_eq_false {s : State} {i : Nat} : s.noSlot i = false ↔ i < s.cfg.nAcc := by
  simp [State.noSlot]

theorem State.noSlot_eq_true {s : State} {i : Nat} : s.noSlot i = true ↔ s.cfg.nAcc ≤ i := by
  simp [State.noSlot]

/-- lenB is negative exactly when its bit 63 is set (R4, R132). -/
theorem lengthBad_eq (lenB : Word) : lengthBad lenB = lenB.getLsbD 63 := by
  have := lenB.isLt
  unfold lengthBad sint64
  cases h : lenB.getLsbD 63 <;> simp
  omega

theorem State.rangeBad_eq_false {s : State} {off len : Word} :
    s.rangeBad off len = false ↔ off.toNat + len.toNat ≤ s.cfg.bufSize := by
  simp [State.rangeBad]

/-- What `perform` does when no check failed. -/
theorem State.perform_ok (s : State) (body : State → State) :
    s.perform .ok body = .next ((body s).complete .ok) := rfl

/-- What `perform` does when a check failed. -/
theorem State.perform_fail (s : State) {e : ErrCode} (h : e ≠ .ok) (body : State → State) :
    s.perform e body = .next (s.raise e) := by
  simp [State.perform, h]

/-- Everything `perform` can do: it always answers a next state, the raised code or the completed body. -/
theorem State.perform_cases (s : State) (e : ErrCode) (body : State → State) :
    (e ≠ .ok ∧ s.perform e body = .next (s.raise e)) ∨
      (e = .ok ∧ s.perform e body = .next ((body s).complete .ok)) := by
  by_cases h : e = .ok
  · subst h; exact .inr ⟨rfl, rfl⟩
  · exact .inl ⟨h, s.perform_fail h body⟩

/-- A code other than OK is not 0 (R136). -/
theorem ErrCode.code_ne_zero {e : ErrCode} (h : e ≠ .ok) : e.code ≠ 0 := by
  cases e <;> first | exact absurd rfl h | decide

/-- Codes 7 to 15 do not occur (R136). -/
theorem ErrCode.code_le (e : ErrCode) : e.code.toNat ≤ 6 := by cases e <;> decide

theorem State.busy_complete (s : State) (e : ErrCode) : (s.complete e).busy = false := rfl

end Sys2Proof.Machine
end

