-- ==== Sys2Proof/Laws/Step.lean ====
section
/-! SUPPORT. What a command, a move of the host and a step can do, said once. -/

namespace Sys2Proof.Machine

/-- Everything `exec` can do, by the shape of the state it answers: a code raised; the accumulator `dest i` created;
an existing accumulator written; or, for GETVAL alone, RESULT written. -/
theorem exec_cases (i : Instr) (s : State) :
    (∃ e, e ≠ .ok ∧ exec i s = .next (s.raise e)) ∨
    (dest i < s.cfg.nAcc ∧
      (((∀ k, i ≠ .getval k) ∧ ∃ v, exec i s = .next ((s.create (dest i) v).complete .ok)) ∨
       ((∀ k, i ≠ .getval k) ∧ s.readValid (dest i) = true ∧
         ∃ v, exec i s = .next ((s.writeAcc (dest i) v).complete .ok)) ∨
       (s.readValid (dest i) = true ∧ i = .getval (dest i) ∧
         exec i s = .next ({ s with result := s.external (dest i) }.complete .ok)))) := by
  cases i with
  | new d =>
    cases h : s.noSlot d
    · exact .inr ⟨State.noSlot_eq_false.1 h, .inl ⟨by simp, _, by simp [exec, execNew, firstError, h, State.perform_ok, dest]; rfl⟩⟩
    · exact .inl ⟨.errIndex, by simp, by simp [exec, execNew, firstError, h, State.perform]⟩
  | reset d =>
    cases h : s.noSlot d
    · exact .inr ⟨State.noSlot_eq_false.1 h, .inl ⟨by simp, _, by simp [exec, execReset, firstError, h, State.perform_ok, dest]; rfl⟩⟩
    · exact .inl ⟨.errIndex, by simp, by simp [exec, execReset, firstError, h, State.perform]⟩
  | newu d off len =>
    rcases s.perform_cases (firstError [(s.noSlot d, .errIndex), (s.rangeBad off len, .errRange)])
      (fun s => s.create d (s.fold allOnes off.toNat len.toNat)) with ⟨he, h⟩ | ⟨he, h⟩
    · exact .inl ⟨_, he, h⟩
    · refine .inr ⟨?_, .inl ⟨by simp, _, h⟩⟩
      cases hd : s.noSlot d
      · exact State.noSlot_eq_false.1 hd
      · simp [firstError, hd] at he
  | update d off len =>
    rcases s.perform_cases
      (firstError [(s.noSlot d, .errIndex), (s.uninit d, .errUninit), (s.rangeBad off len, .errRange)])
      (fun s => s.writeAcc d (s.fold (s.readAcc d) off.toNat len.toNat)) with ⟨he, h⟩ | ⟨he, h⟩
    · exact .inl ⟨_, he, h⟩
    · cases hd : s.noSlot d
      · cases hv : s.uninit d
        · exact .inr ⟨State.noSlot_eq_false.1 hd, .inr (.inl ⟨by simp, by simpa [State.uninit, dest] using hv, _, h⟩)⟩
        · simp [firstError, hd, hv] at he
      · simp [firstError, hd] at he
  | getval d =>
    rcases s.perform_cases (firstError [(s.noSlot d, .errIndex), (s.uninit d, .errUninit)])
      (fun s => { s with result := s.external d }) with ⟨he, h⟩ | ⟨he, h⟩
    · exact .inl ⟨_, he, h⟩
    · cases hd : s.noSlot d
      · cases hv : s.uninit d
        · exact .inr ⟨State.noSlot_eq_false.1 hd, .inr (.inr ⟨by simpa [State.uninit, dest] using hv, rfl, h⟩)⟩
        · simp [firstError, hd, hv] at he
      · simp [firstError, hd] at he
  | combine d a b lenB =>
    rcases s.perform_cases
      (firstError
        [(s.noSlot d, .errIndex), (s.noSlot a || s.noSlot b, .errIndex), (s.uninit a || s.uninit b, .errUninit),
         (d == a || d == b, .errAlias), (lengthBad lenB, .errLength)])
      (fun s => s.create d (combineValue (s.external a) (s.external b) (sint64 lenB).toNat ^^^ allOnes))
      with ⟨he, h⟩ | ⟨he, h⟩
    · exact .inl ⟨_, he, h⟩
    · refine .inr ⟨?_, .inl ⟨by simp, _, h⟩⟩
      cases hd : s.noSlot d
      · exact State.noSlot_eq_false.1 hd
      · simp [firstError, hd] at he

/-- A move that is not enabled can be held. -/
theorem State.holdable_of_not_enabled {s : State} {m : HostMove} (h : s.enabled m = false) : m.holdable = true := by
  cases m <;> simp_all [State.enabled, HostMove.holdable]

/-- While the port holds nothing no move is kept back. -/
theorem State.keptBack_free {s : State} (h : s.held = none) (m : HostMove) : s.keptBack m = false := by
  simp [State.keptBack, h]

/-- Hardware reset and the reads are never kept back. -/
theorem State.keptBack_of_not_holdable (s : State) {m : HostMove} (h : m.holdable = false) : s.keptBack m = false := by
  unfold State.keptBack
  split <;> simp_all

/-- Everything the host's turn can answer: nothing; WAIT passed; the next move held; the next move taking effect. -/
theorem State.hostNext_cases (s : State) :
    (s.hostNext = (none, s)) ∨
    (∃ rest, s.moves = .wait :: rest ∧ s.waitOver = true ∧ s.hostNext = (none, { s with moves := rest })) ∨
    (∃ m rest, s.held = none ∧ s.moves = .move m :: rest ∧ s.enabled m = false ∧
      s.hostNext = (none, { s with held := some m, moves := rest })) ∨
    (∃ m rest, s.moves = .move m :: rest ∧ s.enabled m = true ∧ s.keptBack m = false ∧
      s.hostNext = (some m, { s with moves := rest })) := by
  unfold State.hostNext
  split
  · exact .inl rfl
  · rename_i rest hm
    cases hw : s.waitOver
    · exact .inl (by simp)
    · exact .inr (.inl ⟨rest, hm, rfl, by simp⟩)
  · rename_i m rest hm
    cases hh : s.held with
    | none =>
      have hk := State.keptBack_free hh m
      cases he : s.enabled m
      · exact .inr (.inr (.inl ⟨m, rest, rfl, hm, he, by simp⟩))
      · exact .inr (.inr (.inr ⟨m, rest, hm, he, hk, by simp [hk]⟩))
    | some h =>
      cases he : s.enabled m
      · exact .inl (by simp)
      · cases hk : s.keptBack m
        · exact .inr (.inr (.inr ⟨m, rest, hm, he, hk, by simp⟩))
        · exact .inl (by simp)

/-- An enabled move that is not kept back takes effect on the host's turn. -/
theorem State.hostNext_take {s : State} {m : HostMove} {rest : List HostAct} (hm : s.moves = .move m :: rest)
    (he : s.enabled m = true) (hk : s.keptBack m = false) : s.hostNext = (some m, { s with moves := rest }) := by
  simp [State.hostNext, hm, he, hk]

/-- A move that is not enabled is held, if the port is free. -/
theorem State.hostNext_hold {s : State} {m : HostMove} {rest : List HostAct} (hm : s.moves = .move m :: rest)
    (he : s.enabled m = false) (hh : s.held = none) :
    s.hostNext = (none, { s with held := some m, moves := rest }) := by
  simp [State.hostNext, hm, he, hh]

/-- The host waits with a move that is kept back, or not enabled, while the port holds another. -/
theorem State.hostNext_keep {s : State} {m h : HostMove} {rest : List HostAct} (hm : s.moves = .move m :: rest)
    (hh : s.held = some h) (hw : s.enabled m = false ∨ s.keptBack m = true) : s.hostNext = (none, s) := by
  rcases hw with hw | hw <;> simp [State.hostNext, hm, hh, hw]

/-- WAIT lasts while it is not over. -/
theorem State.hostNext_wait {s : State} {rest : List HostAct} (hm : s.moves = .wait :: rest)
    (hw : s.waitOver = false) : s.hostNext = (none, s) := by simp [State.hostNext, hm, hw]

/-- WAIT is passed when it is over. -/
theorem State.hostNext_go {s : State} {rest : List HostAct} (hm : s.moves = .wait :: rest)
    (hw : s.waitOver = true) : s.hostNext = (none, { s with moves := rest }) := by simp [State.hostNext, hm, hw]

/-- Everything the port's turn can answer: nothing; the held move taking effect. -/
theorem State.portNext_cases (s : State) :
    (s.portNext = (none, s)) ∨
    (∃ m, s.held = some m ∧ s.enabled m = true ∧ s.portNext = (some m, { s with held := none })) := by
  unfold State.portNext
  split
  · rename_i m hm
    cases he : s.enabled m
    · exact .inl (by simp)
    · exact .inr ⟨m, hm, he, by simp⟩
  · exact .inl rfl

/-- A held move takes effect on the port's turn if it is enabled. -/
theorem State.portNext_take {s : State} {m : HostMove} (hh : s.held = some m) (he : s.enabled m = true) :
    s.portNext = (some m, { s with held := none }) := by simp [State.portNext, hh, he]

/-- A held move that is not enabled stays held. -/
theorem State.portNext_stay {s : State} {m : HostMove} (hh : s.held = some m) (he : s.enabled m = false) :
    s.portNext = (none, s) := by simp [State.portNext, hh, he]

/-- A step on which the schedule names an agent is that agent's turn, on the state with the turn used. -/
theorem step_of_turns {s : State} {a : Agent} {ts : List Agent} (h : s.turns = a :: ts) :
    step s = ({ s with turns := ts } : State).takeTurn a := by
  simp [step, State.agent, State.popTurn, h]

/-- Everything a step can do: a turn of the generator or the engine; a turn on which no move takes effect; or a move
taking effect, the host's next one or the one the port holds. -/
theorem step_cases {s t : State} (h : step s = .next t) :
    (s.agent = .generator ∧ t = s.popTurn.generatorStep) ∨
    (s.agent = .engine ∧ s.inFlight = none ∧ t = s.popTurn) ∨
    (s.agent = .engine ∧ ∃ c, s.inFlight = some c ∧ runCommand c s.popTurn = .next t) ∨
    (s.agent = .host ∧ s.popTurn.hostNext = (none, t)) ∨
    (s.agent = .port ∧ t = s.popTurn) ∨
    (∃ m u, s.HostTakes m ∧ s.enabled m = true ∧ u.takeMove m = .next t ∧
      ((∃ rest, s.moves = .move m :: rest ∧ s.keptBack m = false ∧ u = { s.popTurn with moves := rest }) ∨
       (s.held = some m ∧ u = { s.popTurn with held := none }))) := by
  unfold step State.takeTurn at h
  split at h
  · rename_i ha
    exact .inl ⟨ha, by cases h; rfl⟩
  · rename_i ha
    unfold State.engineTurn at h
    split at h
    · rename_i c hc
      exact .inr (.inr (.inl ⟨ha, c, hc, h⟩))
    · rename_i hc
      exact .inr (.inl ⟨ha, hc, by cases h; rfl⟩)
  · rename_i ha
    rcases s.popTurn.portNext_cases with hp | ⟨m, hm, he, hp⟩
    · rw [hp] at h
      exact .inr (.inr (.inr (.inr (.inl ⟨ha, by cases h; rfl⟩))))
    · rw [hp] at h
      exact .inr (.inr (.inr (.inr (.inr ⟨m, _, .inr ⟨ha, by rw [hp]⟩, he, h, .inr ⟨hm, rfl⟩⟩))))
  · rename_i ha
    rcases s.popTurn.hostNext_cases with hn | ⟨rest, -, -, hn⟩ | ⟨m, rest, -, -, -, hn⟩ | ⟨m, rest, hm, he, hk, hn⟩
    · rw [hn] at h
      exact .inr (.inr (.inr (.inl ⟨ha, by cases h; exact hn⟩)))
    · rw [hn] at h
      exact .inr (.inr (.inr (.inl ⟨ha, by cases h; exact hn⟩)))
    · rw [hn] at h
      exact .inr (.inr (.inr (.inl ⟨ha, by cases h; exact hn⟩)))
    · rw [hn] at h
      exact .inr (.inr (.inr (.inr (.inr ⟨m, _, .inl ⟨ha, by rw [hn]⟩, he, h, .inl ⟨rest, hm, hk, rfl⟩⟩))))

/-- Everything a move's effect can be. -/
theorem State.takeMove_cases {s t : State} {m : HostMove} (h : s.takeMove m = .next t) :
    (m = .hardReset ∧ t = s.hardReset) ∨
    (∃ a v, m = .writeBuf a v ∧ a < s.cfg.bufSize ∧ t = s.bufWrite a v) ∨
    (∃ c, m = .issue c ∧ t = { s with inFlight := some c }) ∨
    (∃ r, m = .read r ∧ t = { s with seen := s.readReg r :: s.seen }) := by
  cases m with
  | hardReset => exact .inl ⟨rfl, by cases h; rfl⟩
  | writeBuf a v =>
    simp only [State.takeMove] at h
    split at h
    · rename_i hlt
      exact .inr (.inl ⟨a, v, rfl, hlt, by cases h; rfl⟩)
    · cases h
  | issue c => exact .inr (.inr (.inl ⟨c, rfl, by cases h; rfl⟩))
  | read r => exact .inr (.inr (.inr ⟨r, rfl, by cases h; rfl⟩))

end Sys2Proof.Machine
end

