-- ==== Sys2Proof/Tests/Slice0.lean ====
section
/-! SUPPORT. Small tests, each on one step or one word, with the source of its expected value; and for every statement
with hypotheses a state and operands that meet them. -/

namespace Sys2Proof.Tests

open Sys2Proof.Machine

/-! Well-formedness: each check refuses an ill-formed term (R58). -/

theorem test_illformed_new : (Instr.new 16).wf = false := by decide
theorem test_illformed_newu : (Instr.newu 16 0 0).wf = false := by decide
theorem test_illformed_update : (Instr.update 16 0 0).wf = false := by decide
theorem test_illformed_reset : (Instr.reset 16).wf = false := by decide
theorem test_illformed_getval : (Instr.getval 99).wf = false := by decide
theorem test_illformed_combine_d : (Instr.combine 16 0 0 0).wf = false := by decide
theorem test_illformed_combine_a : (Instr.combine 0 16 0 0).wf = false := by decide
theorem test_illformed_combine_b : (Instr.combine 0 0 16 0).wf = false := by decide
theorem test_wellformed_last_slot : (Instr.combine 15 15 15 0).wf = true := by decide

/-! Decoding: words written bit by bit from R57 and R60, RES1 B A D RES0 OP. -/

theorem test_decode_new : decode ⟨0b000000000000_0000_0000_1111_0000_0001, 7, 5⟩ = .ok (.new 15) := by decide
theorem test_decode_newu : decode ⟨0b000000000000_0000_0000_0011_0000_0010, 7, 5⟩ = .ok (.newu 3 7 5) := by decide
theorem test_decode_update : decode ⟨0b000000000000_0000_0000_0010_0000_0011, 7, 5⟩ = .ok (.update 2 7 5) := by decide
theorem test_decode_reset : decode ⟨0b000000000000_0000_0000_0001_0000_0100, 7, 5⟩ = .ok (.reset 1) := by decide
theorem test_decode_getval : decode ⟨0b000000000000_0000_0000_1000_0000_0101, 7, 5⟩ = .ok (.getval 8) := by decide
theorem test_decode_combine :
    decode ⟨0b000000000000_1101_1110_1111_0000_0110, 7, 5⟩ = .ok (.combine 15 14 13 7) := by decide
/-- 95 §6: the words that do not decode. -/
theorem test_decode_illegal :
    decode ⟨0x00000000, 0, 0⟩ = .error .reservedOp ∧ decode ⟨0x00000007, 0, 0⟩ = .error .reservedOp ∧
    decode ⟨0x0000000F, 0, 0⟩ = .error .reservedOp ∧ decode ⟨0x00000011, 0, 0⟩ = .error .res0Set ∧
    decode ⟨0x00100001, 0, 0⟩ = .error .res1Set ∧ decode ⟨0x80000006, 0, 0⟩ = .error .res1Set ∧
    decode ⟨0x00001001, 0, 0⟩ = .error .slotFieldsSet ∧ decode ⟨0x00010005, 0, 0⟩ = .error .slotFieldsSet := by
  decide
/-- The table's bit numbering: a row's 32 bits, the operand words 0. -/
theorem test_table_word : decodeTableWord 32 0x000DEF06 = some (.combine 15 14 13 0) := by decide
/-- cw, then X, then Y, in 160 bits. -/
theorem test_table_word_operands :
    decodeTableWord 160 (0x00000103 + 4 * 2 ^ 32 + 5 * 2 ^ 96) = some (.update 1 4 5) := by decide

/-- The pseudo-instruction CRC is NEWU then GETVAL, with the words of R67 and R65; WRBUF writes upwards (R66). -/
theorem test_host_program :
    hostProgram [.wrbuf 5 [0x41, 0x42], .crc 1 5 4, .wait, .read .result] =
      [.move (.writeBuf 5 0x41), .move (.writeBuf 6 0x42), .move (.issue ⟨0x00000102, 5, 4⟩),
       .move (.issue ⟨0x00000105, 0, 0⟩), .wait, .move (.read .result)] := by
  decide

/-! Helper states. -/

/-- The state a next outcome carries; `State.reset` where there is none. -/
def after (o : Host.Outcome State Fault Refusal) : State :=
  match o with
  | .next t => t
  | _ => State.reset

/-- After reset and the generator's step: TABLE built, the port open. -/
def ready : State := State.reset.generatorStep

/-- `ready` with "123456789" in BUF[0..8] (93 G4: ASCII). -/
def digits : State :=
  { ready with
    buf := [(0, 0x31), (1, 0x32), (2, 0x33), (3, 0x34), (4, 0x35), (5, 0x36), (6, 0x37), (7, 0x38), (8, 0x39)] }

/-- `digits` with slots 0 and 1 holding CRC("IHATE") and CRC("MATH") (95 P3); slots 2 and 3 not created. -/
def halves : State :=
  { digits with
    acc := (ready.acc.set 0 0xF6C4898CF906A97E).set 1 0x91DAE9F9748A64C0
    valid := (ready.valid.set 0 true).set 1 true }

/-- `digits` with slots 0 and 1 at the seed, which is the CRC of no bytes. -/
def seeds : State :=
  { digits with
    acc := (ready.acc.set 0 allOnes).set 1 allOnes
    valid := (ready.valid.set 0 true).set 1 true }

/-- `halves` with `NEW a0` in flight. -/
def flying : State := { halves with inFlight := some ⟨0x00000001, 0, 0⟩ }

/-! Commands: expected values from 95_test_vectors.md. -/

/-- R83: `NEW a3` puts the seed there. -/
theorem test_new_seed :
    (after (exec (.new 3) halves)).readAcc 3 = 0xFFFFFFFFFFFFFFFF ∧ (after (exec (.new 3) halves)).readValid 3 = true := by
  decide
/-- 95 §6: `NEW a15` at N_ACC = 4 is ERR_INDEX. -/
theorem test_new_bad_index : (after (exec (.new 15) halves)).err = 4 := by decide
/-- R86: `NEWU a0, 0, 9` over "123456789". -/
theorem test_newu_check_value : (after (exec (.newu 0 0 9) digits)).readAcc 0 = 0x66A2364420E6C605 := by decide +kernel
/-- 95 P5 line 14: (2^64 - 1) + 2 does not wrap. -/
theorem test_newu_no_wrap : (after (exec (.newu 0 0xFFFFFFFFFFFFFFFF 2) halves)).err = 1 := by decide
/-- R89: one byte 0x31 folded into the seed. -/
theorem test_update_one_byte : (after (exec (.update 1 0 1) seeds)).readAcc 1 = 0xD5D0F17A6B6A3512 := by
  decide +kernel
/-- 95 V11: UNINIT outranks RANGE. -/
theorem test_update_uninit_first : (after (exec (.update 2 65 0) halves)).err = 5 := by decide
/-- R95: RESET of a slot never created creates it. -/
theorem test_reset_creates :
    (after (exec (.reset 2) halves)).readValid 2 = true ∧ (after (exec (.reset 2) halves)).external 2 = 0 := by decide
/-- R96: RESET leaves the other slots. -/
theorem test_reset_other_slot : (after (exec (.reset 0) halves)).readAcc 1 = 0x91DAE9F9748A64C0 := by decide
/-- 95 P5 line 4: GETVAL a1 is CRC("MATH"). -/
theorem test_getval_external : (after (exec (.getval 1) halves)).result = 0x6E2516068B759B3F := by decide
/-- 95 P5 line 8: GETVAL of a slot not created. -/
theorem test_getval_uninit : (after (exec (.getval 3) halves)).err = 5 := by decide
/-- 95 P3 line 4: CRC("IHATE"), CRC("MATH"), 4 give CRC("IHATEMATH"). -/
theorem test_combine_ihatemath : (after (exec (.combine 2 0 1 4) halves)).external 2 = 0x3920E0F66B6EE0C8 := by
  decide +kernel
/-- 95 P5 lines 6, 7, 11, 12: LENGTH, ALIAS, and INDEX and UNINIT before them. -/
theorem test_combine_priority :
    (after (exec (.combine 3 0 1 0xFFFFFFFFFFFFFFFF) halves)).err = 2 ∧ (after (exec (.combine 0 0 1 4) halves)).err = 6 ∧
    (after (exec (.combine 15 3 0 0xFFFFFFFFFFFFFFFF) halves)).err = 4 ∧
    (after (exec (.combine 3 0 3 0xFFFFFFFFFFFFFFFF) halves)).err = 5 := by decide

/-! Tables and matrices. -/

/-- R16: POLY is the bit reversal of the ECMA-182 polynomial 0x42F0E1EBA9EA3693. -/
theorem test_poly_reversed : poly = (0x42F0E1EBA9EA3693#64).reverse := by decide +kernel

/-- 95 T1: entries of TABLE. -/
theorem test_table_entries :
    genTable[0x01] = 0xB32E4CBE03A75F6F ∧ genTable[0x02] = 0xF4843657A840A05B ∧ genTable[0x80] = 0xC96C5795D7870F42 ∧
    genTable[0xCE] = 0xD52F0E859495CAED ∧ genTable[0xFF] = 0xE0ADA17364673F59 := by decide +kernel
/-- 95 M1: rows of S. -/
theorem test_matrix_rows :
    matrixS[0] = 0x2 ∧ matrixS[1] = 0x5 ∧ matrixS[6] = 0x81 ∧ matrixS[62] = 0x8000000000000001 ∧ matrixS[63] = 0x1 := by
  decide +kernel
/-- 95 M3: apply(S, 2^63) and apply(S, 2). -/
theorem test_matrix_apply :
    applyMatrix matrixS 0x8000000000000000 = 0x4000000000000000 ∧ applyMatrix matrixS 0x2 = 0x1 := by decide +kernel

/-! The machine: the generator, the port, the host. -/

/-- R26, R37: STATUS after reset, after the generator's step, and with a command in flight. -/
theorem test_status_word :
    State.reset.statusWord = 0x0 ∧ (after (step State.reset)).statusWord = 0x2 ∧ flying.statusWord = 0x3 ∧
    (after (exec (.combine 0 0 1 4) halves)).statusWord = 0x62 := by decide
/-- R31: a command offered before the table is ready is held. -/
theorem test_command_held :
    (after (step { State.reset with turns := [.host], moves := [.move (.issue ⟨1, 0, 0⟩)] })).held = some (.issue ⟨1, 0, 0⟩) := by
  decide
/-- R154: and is accepted once the table is ready. -/
theorem test_held_command_accepted :
    (after (step { ready with held := some (.issue ⟨1, 0, 0⟩) })).inFlight = some ⟨1, 0, 0⟩ := by decide
/-- R152: a host write, read back. -/
theorem test_host_write : (after (step { digits with moves := [.move (.writeBuf 5 0xAB)] })).bufRead 5 = 0xAB := by decide
/-- Log entry 10: a host write at BUF_SIZE stops the machine by name. -/
theorem test_host_write_outside :
    (match step { digits with moves := [.move (.writeBuf 64 0xAB)] } with
      | .fault f => decide (f = .bufAddress 64)
      | _ => false) = true := by decide
/-- R159: hardware reset while a command is in flight abandons it. -/
theorem test_reset_abandons :
    (after (step { flying with turns := [.host], moves := [.move .hardReset] })).busy = false ∧
    (after (step { flying with turns := [.host], moves := [.move .hardReset] })).readValid 0 = false := by decide
/-- R28, R155: a read of RESULT while BUSY = 1 gives the older value. -/
theorem test_read_while_busy :
    (after (step { flying with result := 7, turns := [.host], moves := [.move (.read .result)] })).seen = [.result 7] := by decide
/-- R66: WAIT keeps the host while BUSY = 1, though it has the turn, and lets it go on when BUSY = 0. -/
theorem test_wait :
    (after (step { flying with turns := [.host], moves := [.wait, .move (.read .result)] })).moves =
      [.wait, .move (.read .result)] ∧
    (after (step { ready with turns := [.host], moves := [.wait, .move (.read .result)] })).moves =
      [.move (.read .result)] := by decide
/-- R146, R150: hardware reset takes effect at once though the port holds a BUF write it could take. -/
theorem test_reset_passes_held :
    (after (step { digits with held := some (.writeBuf 0 1), turns := [.host], moves := [.move .hardReset] })).tableReady =
      false := by decide
/-- R150: a BUF write is enabled while BUSY = 0, though the port holds a command until TABLE_READY = 1. -/
theorem test_write_passes_held_command :
    (after (step { State.reset with
      held := some (.issue ⟨1, 0, 0⟩), turns := [.host], moves := [.move (.writeBuf 5 0xAB)] })).bufRead 5 = 0xAB := by
  decide
/-- Each row of the table runs as the first instruction after reset (STATUS.ERR as R134 has it: no slot is created). -/
theorem test_first_instruction :
    [0x001, 0x302, 0x003, 0x104, 0x205, 0x10206].map (fun w => (after (step (State.reset.withFetchWord 32 w))).err) =
      [0, 0, 5, 0, 5, 5] := by decide

/-! Witnesses: for every statement with hypotheses, operands and a state that meet each clause's, at its boundary. -/

theorem wit_DecodeEncodeRoundTrip : (Instr.combine 15 0 15 0xFFFFFFFFFFFFFFFF).wf = true := by decide
theorem wit_EncodeDecodeRoundTrip :
    decode ⟨0x00000F02, 1, 2⟩ = .ok (.newu 15 1 2) ∧ decode ⟨0x00000003, 1, 2⟩ = .ok (.update 0 1 2) ∧
    decode ⟨0x000FFF06, 1, 2⟩ = .ok (.combine 15 15 15 1) := by decide
theorem wit_OpcodeRowsAreTheDecoder :
    (⟨"COMBINE", 0xFFF000FF, 0x00000006⟩ : OpcodeRow) ∈ opcodeRows ∧ (0x000FFF06#32 &&& 0xFFF000FF#32) = 0x6 := by
  decide
theorem wit_IllegalWords :
    1 ≤ ((0x00000011#32).extractLsb' 0 4).toNat ∧ ((0x80000006#32).extractLsb' 0 4).toNat ≤ 6 ∧
    (∃ why, decode ⟨0x80000006, 1, 2⟩ = .error why) := ⟨by decide, by decide, .res1Set, by decide⟩
theorem wit_ReservedOpcodesFail :
    (0x00000000#32).extractLsb' 0 4 = 0 ∧ 7 ≤ ((0x00000007#32).extractLsb' 0 4).toNat ∧
    7 ≤ ((0xFFFFFFFF#32).extractLsb' 0 4).toNat := by decide
theorem wit_IgnoredOperandWords :
    (0x00000001#32).extractLsb' 0 4 = 1 ∧ (0x00000004#32).extractLsb' 0 4 = 4 ∧ (0x00000005#32).extractLsb' 0 4 = 5 ∧
    (0x00010206#32).extractLsb' 0 4 = 6 := by decide
/-- With a held move that cannot be taken, and with one that can. -/
theorem wit_HardwareResetAtAnyTime :
    ({ flying with turns := [.host], moves := [.move .hardReset], held := some (.writeBuf 0 1) } : State).turns = [.host] ∧
    ({ flying with turns := [.host], moves := [.move .hardReset], held := some (.writeBuf 0 1) } : State).moves =
      [.move .hardReset] ∧
    flying.enabled (.writeBuf 0 1) = false ∧ ready.enabled (.writeBuf 0 1) = true := by decide
/-- `halves` meets the invariant: two slots created, nine bytes of BUF written, the table built. -/
theorem wit_inv_halves : halves.Inv where
  params := by decide
  bufSorted := by decide
  bufInside := by decide
  tableBuilt := fun _ => rfl
  slotsReal := by
    intro i hi
    by_cases h : i < 16
    · have : 4 ≤ i := hi
      interval_cases i <;> decide
    · cases hv : halves.readValid i
      · rfl
      · exact absurd (State.readValid_lt hv) h
  errLegal := by decide
  flightReady := fun _ => rfl
  heldHoldable := fun m hm => by cases hm
  seenLegal := fun w hw => by cases hw
/-- A state that meets the invariant answers a next state. -/
theorem wit_StepKeepsInvariant :
    halves.Inv ∧ (match step halves with | .next _ => true | _ => false) = true := ⟨wit_inv_halves, by decide⟩
theorem wit_GeneratorStep :
    ({ State.reset with turns := [.generator] } : State).turns = [.generator] ∧ State.reset.tableReady = false ∧
    ({ ready with turns := [.generator] } : State).turns = [.generator] ∧ ready.tableReady = true := by decide
theorem wit_TableWrittenOnlyByGenerator :
    (after (step State.reset)).table ≠ State.reset.table ∧ ready.tableReady = true ∧
    (after (step { ready with moves := [.move .hardReset] })).tableReady = false := by decide +kernel
theorem wit_FoldReadsBytesInOrder : halves.Inv ∧ halves.tableReady = true := ⟨wit_inv_halves, by decide⟩
theorem wit_ChunkInvariance :
    60 + 3 + 1 ≤ seeds.cfg.bufSize ∧ seeds.cfg.Ok ∧ 1 < seeds.cfg.nAcc ∧ seeds.readValid 1 = true ∧
    (63 : Word).toNat = (60 : Word).toNat + (3 : Word).toNat ∧ (4 : Word).toNat = (3 : Word).toNat + (1 : Word).toNat ∧
    (60 : Word).toNat + (4 : Word).toNat ≤ seeds.cfg.bufSize := by decide
/-- Two ranges of the same bytes at different offsets: "1212". -/
theorem wit_OffsetInvariance :
    ∀ k, k < 2 → ({ ready with buf := [(0, 0x31), (1, 0x32), (2, 0x31), (3, 0x32)] } : State).bufRead (2 + k) =
      ({ ready with buf := [(0, 0x31), (1, 0x32), (2, 0x31), (3, 0x32)] } : State).bufRead (0 + k) := by
  intro k hk
  interval_cases k <;> decide
theorem wit_CrcOfRange :
    halves.Inv ∧ halves.tableReady = true ∧ 3 < halves.cfg.nAcc ∧
    (0 : Word).toNat + (64 : Word).toNat ≤ halves.cfg.bufSize := ⟨wit_inv_halves, by decide⟩
/-- NEW and RESET: the last slot of the file, and the first index that names none. -/
theorem wit_NewCommand_ResetCommand : 3 < 16 ∧ 3 < halves.cfg.nAcc ∧ 4 < 16 ∧ halves.cfg.nAcc ≤ 4 := by decide
/-- The bad words of BadFieldsFail: one for each opcode. -/
theorem wit_BadFieldsFail :
    (∀ op ∈ [1, 2, 3, 4, 5], (BitVec.ofNat 32 op ||| 0x1000#32).extractLsb' 0 4 = BitVec.ofNat 4 op ∧
      (BitVec.ofNat 32 op ||| 0x1000#32) &&& 0xFFFFF0FF#32 ≠ BitVec.ofNat 32 op) ∧
    (0x80000006#32).extractLsb' 0 4 = 6#4 ∧ 0x80000006#32 &&& 0xFFF000FF#32 ≠ 6#32 := by decide
/-- NEWU and UPDATE: a range that ends at BUF_SIZE, one that ends a byte further, and an empty one beyond. -/
theorem wit_NewuCommand_UpdateCommand_RangeCheck :
    halves.cfg.Ok ∧ 1 < halves.cfg.nAcc ∧ halves.readValid 1 = true ∧ 3 < halves.cfg.nAcc ∧ halves.readValid 3 = false ∧
    halves.cfg.nAcc ≤ 4 ∧ (60 : Word).toNat + (4 : Word).toNat ≤ halves.cfg.bufSize ∧
    halves.cfg.bufSize < (60 : Word).toNat + (5 : Word).toNat ∧ halves.cfg.bufSize < (65 : Word).toNat + (0 : Word).toNat ∧
    (64 : Word).toNat ≤ halves.cfg.bufSize := by decide
theorem wit_GetvalCommand :
    0 < halves.cfg.nAcc ∧ halves.readValid 0 = true ∧ 3 < halves.cfg.nAcc ∧ halves.readValid 3 = false ∧
    halves.cfg.nAcc ≤ 4 ∧ 4 < 16 := by decide
/-- COMBINE: success with a ≠ b and with a = b at the largest lenB; each error alone. -/
theorem wit_CombineCommand :
    (3 < halves.cfg.nAcc ∧ 0 < halves.cfg.nAcc ∧ 1 < halves.cfg.nAcc ∧ halves.readValid 0 = true ∧ halves.readValid 1 = true ∧
      3 ≠ 0 ∧ 3 ≠ 1 ∧ 0 ≤ sint64 0x7FFFFFFFFFFFFFFF ∧ sint64 0x8000000000000000 < 0) ∧
    halves.cfg.nAcc ≤ 4 ∧ halves.readValid 2 = false := by decide
theorem wit_NewuIsNewThenUpdate :
    halves.cfg.Ok ∧ 3 < halves.cfg.nAcc ∧ (60 : Word).toNat + (4 : Word).toNat ≤ halves.cfg.bufSize := by decide
theorem wit_CombineDefinitionsAgree : 0 < 1 := by decide
/-- CRC of no bytes and CRC of no bytes: slots 0 and 1 of `seeds`, lenB = 0. -/
theorem wit_CombineIsConcatenation :
    seeds.cfg.Ok ∧ 2 < seeds.cfg.nAcc ∧ 0 < seeds.cfg.nAcc ∧ 1 < seeds.cfg.nAcc ∧ seeds.readValid 0 = true ∧
    seeds.readValid 1 = true ∧ 2 ≠ 0 ∧ 2 ≠ 1 ∧ (0 : Word).getLsbD 63 = false ∧ (0 : Word).toNat = ([] : List Byte).length ∧
    seeds.external 0 = crcOf [] ∧ seeds.external 1 = crcOf [] := by decide
/-- CRC("IHATE") and CRC("MATH") in slots 0 and 1 of `halves`, lenB = 4. -/
theorem wit_CombineIsConcatenation_nonempty :
    (4 : Word).getLsbD 63 = false ∧ (4 : Word).toNat = ([0x4D, 0x41, 0x54, 0x48] : List Byte).length ∧
    halves.external 0 = crcOf [0x49, 0x48, 0x41, 0x54, 0x45] ∧ halves.external 1 = crcOf [0x4D, 0x41, 0x54, 0x48] := by
  decide +kernel
theorem wit_CombineZeroLength :
    halves.cfg.Ok ∧ 2 < halves.cfg.nAcc ∧ 0 < halves.cfg.nAcc ∧ halves.readValid 0 = true ∧ 2 ≠ 0 ∧ halves.cfg.nAcc ≤ 4 ∧
    3 < halves.cfg.nAcc ∧ halves.readValid 3 = false ∧ 1 < halves.cfg.nAcc ∧ halves.readValid 1 = true ∧ 2 ≠ 1 := by
  decide
/-- The clause d = b of CombineZeroLength: d = b = 1. -/
theorem wit_CombineZeroLength_alias : 1 < halves.cfg.nAcc ∧ halves.readValid 1 = true ∧ 1 ≠ 0 := by decide
theorem wit_CombineLengths :
    halves.cfg.Ok ∧ 2 < halves.cfg.nAcc ∧ 0 < halves.cfg.nAcc ∧ 1 < halves.cfg.nAcc ∧ halves.readValid 0 = true ∧
    halves.readValid 1 = true ∧ 2 ≠ 0 ∧ 2 ≠ 1 ∧ (0x8000000000000000 : Word).getLsbD 63 = true ∧
    (0x7FFFFFFFFFFFFFFF : Word).getLsbD 63 = false := by decide
theorem wit_CheckOrder :
    checkCode ⟨0x00010006, 4, 0⟩ halves ≠ .ok ∧ checkCode ⟨0x00010206, 4, 0⟩ halves = .ok := by decide
theorem wit_ErrorsChangeNothingElse :
    (after (runCommand ⟨0x00010006, 4, 0⟩ halves)).err ≠ 0 ∧ halves.tableReady = true := by decide
/-- `exec` answers a next state: the hypothesis of CodesByCommand, AccumulatorFileWriters, CommandsTouchNothingElse. -/
theorem wit_exec_next : (match exec (.getval 0) halves with | .next _ => true | _ => false) = true := by decide
theorem wit_AccumulatorFileWriters :
    1 ≠ dest (.new 3) ∧ (after (exec (.new 4) halves)).err ≠ 0 ∧ Instr.getval 0 = .getval (dest (.getval 0)) ∧
    halves.readValid 0 = true := by decide
theorem wit_ValidBitWriters :
    halves.readValid 0 = true ∧ (after (step { halves with moves := [.move .hardReset] })).readValid 0 = false ∧
    halves.readValid 2 = false ∧
    (after (step { halves with inFlight := some ⟨0x00000201, 0, 0⟩ })).readValid 2 = true := by decide
theorem wit_ResultWriters :
    (after (step { halves with inFlight := some ⟨0x00000105, 0, 0⟩ })).result ≠ halves.result ∧
    (after (step { halves with result := 7, moves := [.move .hardReset] })).result ≠ 7 := by decide
theorem wit_InvalidSlotUnobservable :
    halves.readValid 2 = false ∧
    (match runCommand ⟨0x00000005, 0, 0⟩ halves with | .next _ => true | _ => false) = true := by decide
/-- The host's turn with nothing and with a command held, the port's turn, and each side of the port's condition. -/
theorem wit_CommandAcceptance :
    ({ halves with turns := [.host], moves := [.move (.issue ⟨1, 0, 0⟩)] } : State).turns = [.host] ∧
    ({ halves with turns := [.host], moves := [.move (.issue ⟨1, 0, 0⟩)] } : State).moves = [.move (.issue ⟨1, 0, 0⟩)] ∧
    halves.busy = false ∧ halves.tableReady = true ∧ halves.held = none ∧ flying.busy = true ∧ flying.held = none ∧
    State.reset.tableReady = false ∧ State.reset.held = none ∧
    ({ halves with
      turns := [.host], moves := [.move (.issue ⟨2, 0, 0⟩)], held := some (.issue ⟨1, 0, 0⟩) } : State).turns = [.host] ∧
    ({ halves with
      turns := [.host], moves := [.move (.issue ⟨2, 0, 0⟩)], held := some (.issue ⟨1, 0, 0⟩) } : State).moves =
      [.move (.issue ⟨2, 0, 0⟩)] ∧
    ({ halves with
      turns := [.host], moves := [.move (.issue ⟨2, 0, 0⟩)], held := some (.issue ⟨1, 0, 0⟩) } : State).held =
      some (.issue ⟨1, 0, 0⟩) ∧
    ({ halves with turns := [.port], held := some (.issue ⟨1, 0, 0⟩) } : State).turns = [.port] ∧
    ({ halves with turns := [.port], held := some (.issue ⟨1, 0, 0⟩) } : State).held = some (.issue ⟨1, 0, 0⟩) := by
  decide
theorem wit_AcceptThenComplete :
    ({ halves with moves := [.move (.issue ⟨1, 0, 0⟩)] } : State).turns = [] ∧ halves.held = none ∧ halves.busy = false ∧
    halves.tableReady = true := by decide
/-- A step with a held move; and each reason for the host's next move to wait. -/
theorem wit_HeldMoveNeverLost :
    (match step { flying with held := some (.issue ⟨1, 0, 0⟩) } with | .next _ => true | _ => false) = true ∧
    (HostMove.issue ⟨2, 0, 0⟩).holdable = true ∧ (HostMove.writeBuf 0 1).holdable = true ∧ flying.busy = true ∧
    ({ ready with turns := [.host], held := some (.writeBuf 0 1), moves := [.move (.writeBuf 0 2)] } : State).held =
      some (.writeBuf 0 1) ∧
    ({ ready with turns := [.host], held := some (.writeBuf 0 1), moves := [.move (.writeBuf 0 2)] } : State).moves =
      [.move (.writeBuf 0 2)] := by decide
theorem wit_HostWritesBuf :
    halves.held = none ∧ halves.busy = false ∧ 63 < halves.cfg.bufSize ∧
    ({ State.reset with held := some (.issue ⟨1, 0, 0⟩) } : State).held = some (.issue ⟨1, 0, 0⟩) ∧
    State.reset.busy = false ∧
    ({ halves with turns := [.host], moves := [.move (.writeBuf 63 0xAB)] } : State).moves = [.move (.writeBuf 63 0xAB)] ∧
    (after (step { halves with moves := [.move (.writeBuf 63 0xAB)] })).buf ≠ halves.buf ∧
    (after (step { halves with moves := [.move .hardReset] })).buf ≠ halves.buf := by decide
/-- The write offered while BUSY = 1; held while BUSY = 1; held with BUSY = 0, a hardware reset coming. -/
theorem wit_BufWriteHeldWhileBusy :
    flying.busy = true ∧ flying.held = none ∧
    ({ flying with turns := [.host], moves := [.move (.writeBuf 63 1)] } : State).moves = [.move (.writeBuf 63 1)] ∧
    ({ flying with turns := [.port], held := some (.writeBuf 63 1) } : State).held = some (.writeBuf 63 1) ∧
    ({ flying with turns := [.port], held := some (.writeBuf 63 1) } : State).busy = true ∧
    ({ halves with turns := [.port], held := some (.writeBuf 63 1), moves := [.move .hardReset] } : State).busy = false ∧
    63 < halves.cfg.bufSize := by decide
theorem wit_CommandInFlight :
    flying.inFlight = some ⟨0x00000001, 0, 0⟩ ∧
    (match step flying with | .next _ => true | _ => false) = true ∧
    (match step { flying with turns := [.host] } with | .next _ => true | _ => false) = true := by decide
/-- A read while a command is in flight, and one while the port holds a command until TABLE_READY = 1. -/
theorem wit_HostReadsRegister :
    ({ flying with turns := [.host], moves := [.move (.read .status)] } : State).turns = [.host] ∧
    ({ flying with turns := [.host], moves := [.move (.read .status)] } : State).moves = [.move (.read .status)] ∧
    ({ State.reset with
      turns := [.host], moves := [.move (.read .status)], held := some (.issue ⟨1, 0, 0⟩) } : State).moves =
      [.move (.read .status)] := by decide
/-- WAIT met while BUSY = 1, while the port holds a command, and with neither; and a run that reads the result. -/
theorem wit_WaitBeforeRead :
    ({ flying with turns := [.host], moves := [.wait] } : State).moves = [.wait] ∧ flying.busy = true ∧
    ({ State.reset with held := some (.issue ⟨1, 0, 0⟩) } : State).held ≠ none ∧ ready.busy = false ∧ ready.held = none ∧
    halves.inFlight = none ∧ halves.held = none ∧ decode ⟨0x00000105, 0, 0⟩ = .ok (.getval 1) ∧ 1 < halves.cfg.nAcc ∧
    halves.readValid 1 = true ∧
    (match core.run 4 { halves with moves := [.move (.issue ⟨0x00000105, 0, 0⟩), .wait, .move (.read .result)] } with
      | .next _ => true
      | _ => false) = true := by decide
theorem wit_StepRunsDecoded :
    flying.agent = .engine ∧ flying.inFlight = some ⟨0x00000001, 0, 0⟩ ∧ decode ⟨0x00000001, 0, 0⟩ = .ok (.new 0) := by
  decide
theorem wit_FetchWordRunsNext : decodeTableWord 32 0x00000305 = some (.getval 3) := by decide
theorem wit_AgentsMakeProgress :
    (match core.run 1 { State.reset with turns := [.engine] } with | .next _ => true | _ => false) = true ∧
    State.reset.turns = [] ∧ State.reset.tableReady = false ∧ flying.turns = [] ∧ flying.tableReady = true ∧
    flying.inFlight = some ⟨0x00000001, 0, 0⟩ ∧ halves.turns = [] ∧ halves.tableReady = true ∧ halves.inFlight = none ∧
    ({ halves with held := some (.writeBuf 0 1) } : State).held = some (.writeBuf 0 1) := by decide
theorem wit_MachineNeverStops :
    ({ halves with moves := [.move (.writeBuf 63 1)], held := some (.writeBuf 0 2) } : State).MovesExist := by
  intro addr v h
  simp at h
  rcases h with ⟨rfl, -⟩ | ⟨rfl, -⟩ <;> decide
theorem wit_OnlyBadWriteStops :
    (match step { digits with moves := [.move (.writeBuf 64 0xAB)] } with | .fault _ => true | _ => false) = true := by decide

end Sys2Proof.Tests
end

/-! PROOFS, 10_state.md. What a command completes with and what a step can do, each said once in the form the
statements about the state use; then the statements themselves. -/

namespace Sys2Proof.Machine

/-! The checks and the completion of a command. -/

theorem runCommand_of_ok {c : Command} {i : Instr} (h : decode c = .ok i) (s : State) :
    runCommand c s = exec i s := by
  simp [runCommand, h]

theorem runCommand_of_error {c : Command} {why : Illegal} (h : decode c = .error why) (s : State) :
    runCommand c s = .next (s.raise .errIllegal) := by
  simp [runCommand, h]

theorem firstError_nil : firstError [] = .ok := rfl

/-- No check fails exactly when the first passes and no later one fails. -/
theorem firstError_cons_eq_ok {b : Bool} {e : ErrCode} {rest : List (Bool × ErrCode)} (he : e ≠ .ok) :
    firstError ((b, e) :: rest) = .ok ↔ b = false ∧ firstError rest = .ok := by
  cases b <;> simp [firstError, he]

/-- The checks of an instruction, in the order of R134, as its `exec…` lists them (`exec_eq_perform`). -/
def checksOf (i : Instr) (s : State) : List (Bool × ErrCode) :=
  match i with
  | .new d => [(s.noSlot d, .errIndex)]
  | .newu d off len => [(s.noSlot d, .errIndex), (s.rangeBad off len, .errRange)]
  | .update d off len => [(s.noSlot d, .errIndex), (s.uninit d, .errUninit), (s.rangeBad off len, .errRange)]
  | .reset d => [(s.noSlot d, .errIndex)]
  | .getval d => [(s.noSlot d, .errIndex), (s.uninit d, .errUninit)]
  | .combine d a b lenB =>
    [(s.noSlot d, .errIndex), (s.noSlot a || s.noSlot b, .errIndex), (s.uninit a || s.uninit b, .errUninit),
     (d == a || d == b, .errAlias), (lengthBad lenB, .errLength)]

/-- What an instruction writes when no check fails, before its completion (`exec_eq_perform`). -/
def bodyOf (i : Instr) (s : State) : State :=
  match i with
  | .new d => s.create d allOnes
  | .newu d off len => s.create d (s.fold allOnes off.toNat len.toNat)
  | .update d off len => s.writeAcc d (s.fold (s.readAcc d) off.toNat len.toNat)
  | .reset d => s.create d allOnes
  | .getval d => { s with result := s.external d }
  | .combine d a b lenB => s.create d (combineValue (s.external a) (s.external b) (sint64 lenB).toNat ^^^ allOnes)

theorem exec_eq_perform (i : Instr) (s : State) :
    exec i s = s.perform (firstError (checksOf i s)) (bodyOf i) := by
  cases i <;> rfl

/-- R134's `check` of a decoded command is the first error of the instruction's checks. -/
theorem checkCode_of_ok {c : Command} {i : Instr} (h : decode c = .ok i) (s : State) :
    checkCode c s = firstError (checksOf i s) := by
  cases i <;>
    simp [checkCode, h, dest, checksOf, firstError, State.noSlot, State.uninit, State.rangeBad, lengthBad_eq]

theorem checkCode_of_error {c : Command} {why : Illegal} (h : decode c = .error why) (s : State) :
    checkCode c s = .errIllegal := by
  simp [checkCode, h]

/-- Whatever the code, `perform` answers a state in which the command has completed with it. -/
theorem State.perform_completed (s : State) (e : ErrCode) (body : State → State) :
    ∃ t, s.perform e body = .next t ∧ Completed t e.code := by
  rcases s.perform_cases e body with ⟨-, h⟩ | ⟨rfl, h⟩
  · exact ⟨_, h, rfl, rfl⟩
  · exact ⟨_, h, rfl, rfl⟩

theorem runCommand_completed (c : Command) (s : State) :
    ∃ t, runCommand c s = .next t ∧ Completed t (checkCode c s).code := by
  cases hd : decode c with
  | error why => exact ⟨_, runCommand_of_error hd s, by rw [checkCode_of_error hd]; exact ⟨rfl, rfl⟩⟩
  | ok i =>
    rw [runCommand_of_ok hd, exec_eq_perform, checkCode_of_ok hd]
    exact s.perform_completed _ _

theorem busy_of_runCommand {c : Command} {s t : State} (h : runCommand c s = .next t) : t.busy = false := by
  obtain ⟨t', h', -, hbusy⟩ := runCommand_completed c s
  rw [h] at h'
  cases h'
  exact hbusy

/-- The states `exec i s` can answer, by what was written: `exec_cases` with its answer substituted. -/
inductive Completion (i : Instr) (s : State) : State → Prop where
  /-- A check failed. -/
  | raised (e : ErrCode) (he : e ≠ .ok) : Completion i s (s.raise e)
  /-- The accumulator of the command's slot was created. -/
  | created (v : Word) (hd : dest i < s.cfg.nAcc) (hg : ∀ k, i ≠ .getval k) :
      Completion i s ((s.create (dest i) v).complete .ok)
  /-- The register of an existing accumulator was written. -/
  | written (v : Word) (hg : ∀ k, i ≠ .getval k) : Completion i s ((s.writeAcc (dest i) v).complete .ok)
  /-- RESULT was written, by GETVAL. -/
  | gotten (hi : i = .getval (dest i)) :
      Completion i s ({ s with result := s.external (dest i) }.complete .ok)

theorem completion_of_exec {i : Instr} {s t : State} (h : exec i s = .next t) : Completion i s t := by
  rcases exec_cases i s with ⟨e, he, h'⟩ | ⟨hd, ⟨hg, v, h'⟩ | ⟨hg, -, v, h'⟩ | ⟨-, hi, h'⟩⟩
  all_goals rw [h] at h'; cases h'
  · exact .raised e he
  · exact .created v hd hg
  · exact .written v hg
  · exact .gotten hi

/-- Everything a command can do: a word that does not decode raises ERR_ILLEGAL, another completes as its
instruction does. -/
theorem runCommand_cases {c : Command} {s t : State} (h : runCommand c s = .next t) :
    t = s.raise .errIllegal ∨ ∃ i, decode c = .ok i ∧ Completion i s t := by
  cases hd : decode c with
  | error why =>
    rw [runCommand_of_error hd] at h
    cases h
    exact .inl rfl
  | ok i =>
    rw [runCommand_of_ok hd] at h
    exact .inr ⟨i, rfl, completion_of_exec h⟩

/-! The frame of a completion. -/

theorem Completion.sameOutside {i : Instr} {s t : State} (h : Completion i s t) : SameOutside s t := by
  cases h <;> exact ⟨fun _ => rfl, rfl, rfl, rfl, rfl, rfl, rfl, rfl, rfl, rfl⟩

theorem sameOutside_of_runCommand {c : Command} {s t : State} (h : runCommand c s = .next t) : SameOutside s t := by
  rcases runCommand_cases h with rfl | ⟨i, -, hc⟩
  · exact ⟨fun _ => rfl, rfl, rfl, rfl, rfl, rfl, rfl, rfl, rfl, rfl⟩
  · exact hc.sameOutside

theorem Completion.sameSlot_of_ne_dest {i : Instr} {s t : State} {j : Nat} (h : Completion i s t) (hj : j ≠ dest i) :
    SameSlot s t j := by
  cases h with
  | raised e he => exact ⟨rfl, rfl⟩
  | created v hd hg => exact ⟨s.readAcc_create_other hj v, s.readValid_create_other hj v⟩
  | written v hg => exact ⟨s.readAcc_writeAcc_other hj v, rfl⟩
  | gotten hi => exact ⟨rfl, rfl⟩

theorem Completion.sameSlot_of_err_ne_zero {i : Instr} {s t : State} (h : Completion i s t) (he : t.err ≠ 0) (j : Nat) :
    SameSlot s t j := by
  cases h with
  | raised e _ => exact ⟨rfl, rfl⟩
  | created | written | gotten => exact absurd rfl he

theorem Completion.sameSlot_of_getval {i : Instr} {s t : State} (h : Completion i s t) (hi : i = .getval (dest i))
    (j : Nat) : SameSlot s t j := by
  cases h with
  | raised | gotten => exact ⟨rfl, rfl⟩
  | created v hd hg => exact absurd hi (hg _)
  | written v hg => exact absurd hi (hg _)

/-- Creating an accumulator clears no VALID bit. -/
theorem State.readValid_create_of_valid {s : State} {j : Nat} (h : s.readValid j = true) (d : Nat) (v : Word) :
    (s.create d v).readValid j = true := by
  by_cases hj : j = d
  · subst hj
    exact s.readValid_create_same (State.readValid_lt h) v
  · rw [s.readValid_create_other hj v, h]

theorem Completion.readValid_of_valid {i : Instr} {s t : State} {j : Nat} (h : Completion i s t)
    (hv : s.readValid j = true) : t.readValid j = true := by
  cases h with
  | raised | written | gotten => exact hv
  | created v hd hg => exact State.readValid_create_of_valid hv _ v

/-- A VALID bit that a completion sets is that of the command's slot, and the command succeeded (R24). -/
theorem Completion.sets_valid {i : Instr} {s t : State} {j : Nat} (h : Completion i s t) (hs : s.readValid j = false)
    (ht : t.readValid j = true) : dest i = j ∧ t.err = 0 := by
  have not_same : ¬ SameSlot s t j := fun hsame => by simp [hsame.2, hs] at ht
  constructor
  · by_contra hj
    exact not_same (h.sameSlot_of_ne_dest (Ne.symm hj))
  · by_contra he
    exact not_same (h.sameSlot_of_err_ne_zero he j)

/-- A completion that changes RESULT is a successful GETVAL's (R29). -/
theorem Completion.changes_result {i : Instr} {s t : State} (h : Completion i s t) (hr : t.result ≠ s.result) :
    i = .getval (dest i) ∧ t.err = 0 ∧ t.result = s.external (dest i) := by
  cases h with
  | raised | created | written => exact absurd rfl hr
  | gotten hi => exact ⟨hi, rfl, rfl⟩

/-! What a step can do. -/

/-- The states that differ from `s` on the host's side alone: its coming moves, the schedule, and the move the port
holds, which is the old one or one that can be held. -/
inductive HostSide (s : State) : State → Prop where
  | mk (h : Option HostMove) (ms : List HostAct) (ts : List Agent)
      (hh : ∀ m, h = some m → s.held = some m ∨ m.holdable = true) :
      HostSide s { s with held := h, moves := ms, turns := ts }

theorem hostSide_popTurn (s : State) : HostSide s s.popTurn := .mk s.held s.moves s.turns.tail fun _ h => .inl h

theorem HostSide.enabled_eq {s u : State} (hu : HostSide s u) (m : HostMove) : u.enabled m = s.enabled m := by
  obtain ⟨h, ms, ts, -⟩ := hu
  rfl

theorem HostSide.sameRegisters {s u : State} (hu : HostSide s u) : SameRegisters s u := by
  obtain ⟨h, ms, ts, -⟩ := hu
  exact ⟨rfl, rfl, rfl, rfl, rfl⟩

/-- A turn of the host on which no move takes effect changes the host's side alone. -/
theorem hostSide_of_hostNext_none {s t : State} (h : s.popTurn.hostNext = (none, t)) : HostSide s t := by
  rcases s.popTurn.hostNext_cases with h' | ⟨rest, -, -, h'⟩ | ⟨m, rest, -, -, he, h'⟩ | ⟨m, rest, -, -, -, h'⟩
  all_goals rw [h] at h'; cases h'
  · exact hostSide_popTurn s
  · exact .mk s.held rest s.turns.tail fun _ h => .inl h
  · refine .mk (some m) rest s.turns.tail fun m' h => .inr ?_
    cases h
    exact State.holdable_of_not_enabled he

/-- What a step can do, by the part of CORE it changes, up to the host's side: `step_cases` and `takeMove_cases` as
one. -/
inductive StepEffect (s : State) : State → Prop where
  /-- The generator's turn (R78). -/
  | generated (ha : s.agent = .generator) : StepEffect s s.popTurn.generatorStep
  /-- The engine completes the command in flight (R28). -/
  | completed {t : State} (c : Command) (ha : s.agent = .engine) (hc : s.inFlight = some c)
      (h : runCommand c s.popTurn = .next t) : StepEffect s t
  /-- No move takes effect. -/
  | idle {u : State} (hu : HostSide s u) : StepEffect s u
  /-- Hardware reset (R146). -/
  | reset {u : State} (hu : HostSide s u) (ht : s.HostTakes .hardReset) : StepEffect s u.hardReset
  /-- A byte of BUF is written (R152). -/
  | bufWritten {u : State} (a : Nat) (v : Byte) (hu : HostSide s u) (ha : a < u.cfg.bufSize)
      (he : u.enabled (.writeBuf a v) = true) : StepEffect s (u.bufWrite a v)
  /-- A command is accepted (R31). -/
  | accepted {u : State} (c : Command) (hu : HostSide s u) (ho : u.portOpen = true) :
      StepEffect s { u with inFlight := some c }
  /-- The host reads a register (R30). -/
  | hostRead {u : State} (r : HostReg) (hu : HostSide s u) : StepEffect s { u with seen := u.readReg r :: u.seen }

/-- A move that takes effect on a state that differs on the host's side alone. -/
theorem stepEffect_of_takeMove {s u t : State} {m : HostMove} (hu : HostSide s u) (ht : s.HostTakes m)
    (he : s.enabled m = true) (h : u.takeMove m = .next t) : StepEffect s t := by
  rw [← hu.enabled_eq] at he
  rcases State.takeMove_cases h with ⟨rfl, rfl⟩ | ⟨a, v, rfl, ha, rfl⟩ | ⟨c, rfl, rfl⟩ | ⟨r, rfl, rfl⟩
  · exact .reset hu ht
  · exact .bufWritten a v hu ha he
  · exact .accepted c hu he
  · exact .hostRead r hu

theorem stepEffect_of_step {s t : State} (h : step s = .next t) : StepEffect s t := by
  rcases step_cases h with ⟨ha, rfl⟩ | ⟨-, -, rfl⟩ | ⟨ha, c, hc, hr⟩ | ⟨-, hn⟩ | ⟨-, rfl⟩ | ⟨m, u, ht, he, hm, hu⟩
  · exact .generated ha
  · exact .idle (hostSide_popTurn s)
  · exact .completed c ha hc hr
  · exact .idle (hostSide_of_hostNext_none hn)
  · exact .idle (hostSide_popTurn s)
  · refine stepEffect_of_takeMove ?_ ht he hm
    rcases hu with ⟨rest, -, -, rfl⟩ | ⟨-, rfl⟩
    · exact .mk s.held rest s.turns.tail fun _ h => .inl h
    · exact .mk none s.moves s.turns.tail fun _ h => by cases h

theorem HostSide.sameTable {s u : State} (hu : HostSide s u) : u.table = s.table ∧ u.tableReady = s.tableReady := by
  obtain ⟨h, ms, ts, -⟩ := hu
  exact ⟨rfl, rfl⟩

theorem HostSide.inFlight_eq {s u : State} (hu : HostSide s u) : u.inFlight = s.inFlight := by
  obtain ⟨h, ms, ts, -⟩ := hu
  rfl

theorem HostSide.busy_eq {s u : State} (hu : HostSide s u) : u.busy = s.busy :=
  congrArg Option.isSome hu.inFlight_eq

/-- What a step can do to TABLE and TABLE_READY (R18, R19). -/
theorem StepEffect.table_cases {s t : State} (h : StepEffect s t) :
    (t.table = s.table ∧ t.tableReady = s.tableReady) ∨
    (s.agent = .generator ∧ s.tableReady = false ∧ t.table = genTable ∧ t.tableReady = true) ∨
    (s.HostTakes .hardReset ∧ t.tableReady = false) := by
  cases h with
  | generated ha =>
    cases hr : s.tableReady with
    | true => exact .inl (by rw [State.generatorStep_of_ready (s := s.popTurn) hr]; exact ⟨rfl, hr⟩)
    | false =>
      exact .inr (.inl ⟨ha, rfl, by rw [State.generatorStep_of_not_ready (s := s.popTurn) hr],
        s.popTurn.generatorStep_tableReady⟩)
  | completed c ha hc hrun =>
    obtain ⟨-, -, htable, hready, -⟩ := sameOutside_of_runCommand hrun
    exact .inl ⟨htable, hready⟩
  | reset hu ht => exact .inr (.inr ⟨ht, rfl⟩)
  | idle hu => exact .inl hu.sameTable
  | bufWritten a v hu ha he => exact .inl hu.sameTable
  | accepted c hu ho => exact .inl hu.sameTable
  | hostRead r hu => exact .inl hu.sameTable

/-- What a step can do to VALID and RESULT: only the engine and hardware reset write them (R21, R29). -/
theorem StepEffect.valid_result_cases {s t : State} (h : StepEffect s t) :
    (t.valid = s.valid ∧ t.result = s.result) ∨
    (∃ c, s.agent = .engine ∧ s.inFlight = some c ∧ runCommand c s.popTurn = .next t) ∨
    (s.HostTakes .hardReset ∧ ∃ u : State, t = u.hardReset) := by
  cases h with
  | generated ha => exact .inl ⟨s.popTurn.generatorStep_valid, s.popTurn.generatorStep_result⟩
  | completed c ha hc hrun => exact .inr (.inl ⟨c, ha, hc, hrun⟩)
  | reset hu ht => exact .inr (.inr ⟨ht, _, rfl⟩)
  | idle hu | bufWritten _ _ hu | accepted _ hu | hostRead _ hu =>
    obtain ⟨-, hvalid, -, -, hresult⟩ := hu.sameRegisters
    exact .inl ⟨hvalid, hresult⟩

/-! The STATUS word (R26). -/

theorem State.statusWord_busy (s : State) : s.statusWord.getLsbD 0 = s.busy := by
  unfold State.statusWord
  simp

theorem State.statusWord_tableReady (s : State) : s.statusWord.getLsbD 1 = s.tableReady := by
  unfold State.statusWord
  simp

theorem State.statusWord_reserved_low (s : State) : s.statusWord.extractLsb' 2 2 = 0 := by
  unfold State.statusWord
  apply BitVec.eq_of_getLsbD_eq
  intro i hi
  interval_cases i <;> simp

theorem State.statusWord_err (s : State) : s.statusWord.extractLsb' 4 4 = s.err := by
  unfold State.statusWord
  apply BitVec.eq_of_getLsbD_eq
  intro i hi
  interval_cases i <;> simp

theorem State.statusWord_reserved_high (s : State) : s.statusWord.extractLsb' 8 24 = 0 := by
  unfold State.statusWord
  apply BitVec.eq_of_getLsbD_eq
  intro i hi
  interval_cases i <;> simp

theorem State.legalStatus_statusWord {s : State} (h : s.err.toNat ≤ 6) : legalStatus s.statusWord :=
  ⟨s.statusWord_reserved_low, s.statusWord_reserved_high, by rwa [s.statusWord_err]⟩

/-! The invariant, kept by each effect. -/

theorem State.Inv.hostSide {s u : State} (hi : s.Inv) (hu : HostSide s u) : u.Inv := by
  obtain ⟨h, ms, ts, hh⟩ := hu
  exact { hi with heldHoldable := fun m hm => (hh m hm).elim (hi.heldHoldable m) id }

theorem State.Inv.generatorStep {s : State} (hi : s.Inv) : s.generatorStep.Inv := by
  cases hr : s.tableReady with
  | true => rwa [State.generatorStep_of_ready hr]
  | false =>
    rw [State.generatorStep_of_not_ready hr]
    exact { hi with tableBuilt := fun _ => rfl, flightReady := fun _ => rfl }

theorem State.Inv.complete {s : State} (hi : s.Inv) (e : ErrCode) : (s.complete e).Inv :=
  { hi with errLegal := e.code_le, flightReady := fun h => by cases h }

theorem State.Inv.create {s : State} (hi : s.Inv) {d : Nat} (hd : d < s.cfg.nAcc) (v : Word) : (s.create d v).Inv :=
  { hi with
    slotsReal := fun i h => by
      have hne : i ≠ d := by rintro rfl; exact absurd hd (Nat.not_lt.2 h)
      rw [s.readValid_create_other hne v]
      exact hi.slotsReal i h }

theorem State.Inv.writeAcc {s : State} (hi : s.Inv) (d : Nat) (v : Word) : (s.writeAcc d v).Inv := { hi with }

theorem State.Inv.setResult {s : State} (hi : s.Inv) (v : Word) : ({ s with result := v } : State).Inv := { hi with }

theorem State.Inv.completion {i : Instr} {s t : State} (hi : s.Inv) (h : Completion i s t) : t.Inv := by
  cases h with
  | raised e he => exact hi.complete e
  | created v hd hg => exact (hi.create hd v).complete .ok
  | written v hg => exact (hi.writeAcc _ v).complete .ok
  | gotten hg => exact (hi.setResult _).complete .ok

theorem State.Inv.runCommand {c : Command} {s t : State} (hi : s.Inv) (h : runCommand c s = .next t) : t.Inv := by
  rcases runCommand_cases h with rfl | ⟨i, -, hc⟩
  · exact hi.complete .errIllegal
  · exact hi.completion hc

theorem State.Inv.hardReset {s : State} (hi : s.Inv) : s.hardReset.Inv where
  params := hi.params
  bufSorted := Memory.wf_reset
  bufInside := fun c hc => by cases hc
  tableBuilt := fun h => by cases h
  slotsReal := fun i _ => s.readValid_hardReset i
  errLegal := Nat.zero_le 6
  flightReady := fun h => by cases h
  heldHoldable := hi.heldHoldable
  seenLegal := hi.seenLegal

theorem State.Inv.bufWrite {s : State} (hi : s.Inv) {a : Nat} (ha : a < s.cfg.bufSize) (v : Byte) :
    (s.bufWrite a v).Inv :=
  { hi with
    bufSorted := Memory.store_wf hi.bufSorted a v
    bufInside := fun c hc => by
      rcases Memory.mem_store hc with rfl | hc
      · exact ha
      · exact hi.bufInside c hc }

theorem State.tableReady_of_portOpen {s : State} (h : s.portOpen = true) : s.tableReady = true := by
  simp only [State.portOpen, Bool.and_eq_true] at h
  exact h.2

theorem State.Inv.accept {s : State} (hi : s.Inv) (ho : s.portOpen = true) (c : Command) :
    ({ s with inFlight := some c } : State).Inv :=
  have hready := State.tableReady_of_portOpen ho
  { hi with flightReady := fun _ => hready }

theorem State.Inv.hostRead {s : State} (hi : s.Inv) (r : HostReg) :
    ({ s with seen := s.readReg r :: s.seen } : State).Inv :=
  { hi with
    seenLegal := fun w hw => by
      rcases List.mem_cons.1 hw with hw | hw
      · cases r with
        | status => cases hw; exact State.legalStatus_statusWord hi.errLegal
        | result => cases hw
      · exact hi.seenLegal w hw }

/-! The statements on the invariant, the table, the registers and what a command leaves alone. -/

/-- Settles O11: each effect a step can have keeps the invariant. -/
theorem stepKeepsInvariant : Obligations.StepKeepsInvariant := by
  intro s t hi h
  cases stepEffect_of_step h with
  | generated ha => exact (hi.hostSide (hostSide_popTurn s)).generatorStep
  | completed c ha hc hr => exact (hi.hostSide (hostSide_popTurn s)).runCommand hr
  | idle hu => exact hi.hostSide hu
  | reset hu ht => exact (hi.hostSide hu).hardReset
  | bufWritten a v hu ha he => exact (hi.hostSide hu).bufWrite ha v
  | accepted c hu ho => exact (hi.hostSide hu).accept ho c
  | hostRead r hu => exact (hi.hostSide hu).hostRead r

/-- Settles O10: nothing is written, created, in flight, held or read yet, and 4 and 64 are within the bounds. -/
theorem resetMeetsInvariant : Obligations.ResetMeetsInvariant where
  params := by decide
  bufSorted := Memory.wf_reset
  bufInside := fun c hc => by cases hc
  tableBuilt := fun h => by cases h
  slotsReal := fun i _ => State.reset.readValid_hardReset i
  errLegal := Nat.zero_le 6
  flightReady := fun h => by cases h
  heldHoldable := fun m hm => by cases hm
  seenLegal := fun w hw => by cases hw

/-- Settles O8: each value is the one `State.reset` writes. -/
theorem resetValues : Obligations.ResetValues :=
  ⟨rfl, State.reset.readValid_hardReset, rfl, rfl, rfl, rfl, fun _ => rfl⟩

/-- Settles O14: of the effects a step can have, the generator's and hardware reset alone write TABLE or TABLE_READY. -/
theorem tableWrittenOnlyByGenerator : Obligations.TableWrittenOnlyByGenerator := by
  intro s t h
  rcases (stepEffect_of_step h).table_cases with ⟨htable, hready⟩ | ⟨ha, hnot, htable, hready⟩ | ⟨ht, hready⟩
  · exact ⟨fun hne => absurd htable hne, fun hs hf => by simp [hready, hs] at hf⟩
  · exact ⟨fun _ => .inl ⟨ha, hnot, htable, hready⟩, fun hs => by simp [hnot] at hs⟩
  · exact ⟨fun _ => .inr ⟨ht, hready⟩, fun _ _ => ht⟩

/-- Settles O39: a command completes with its `checkCode`, and every code is at most 6. -/
theorem everyCommandWritesErr : Obligations.EveryCommandWritesErr := by
  refine ⟨fun c s => ?_, rfl, rfl, rfl, rfl, rfl, rfl, rfl, fun _ => rfl⟩
  obtain ⟨t, h, hc⟩ := runCommand_completed c s
  exact ⟨t, h, hc, hc.1 ▸ (checkCode c s).code_le⟩

/-- Settles O42, by the frame of a completion. -/
theorem accumulatorFileWriters : Obligations.AccumulatorFileWriters := by
  intro i s t h
  have hc := completion_of_exec h
  refine ⟨fun j => hc.sameSlot_of_ne_dest, fun h j => ?_, fun j => hc.readValid_of_valid⟩
  rcases h with he | hi
  · exact hc.sameSlot_of_err_ne_zero he j
  · exact hc.sameSlot_of_getval hi j

/-- Settles O43, by the frame of a completion. -/
theorem commandsTouchNothingElse : Obligations.CommandsTouchNothingElse :=
  fun _ _ _ h => (completion_of_exec h).sameOutside

/-- Settles O44: only the engine and hardware reset write VALID; a completion clears no bit of it, and sets only its own
slot's. -/
theorem validBitWriters : Obligations.ValidBitWriters := by
  intro s t j h
  rcases (stepEffect_of_step h).valid_result_cases with ⟨hvalid, -⟩ | ⟨c, ha, hc, hrun⟩ | ⟨ht, u, rfl⟩
  · have hsame : t.readValid j = s.readValid j := congrArg (·.getD j false) hvalid
    rw [hsame]
    cases s.readValid j <;> simp
  · rcases runCommand_cases hrun with rfl | ⟨i, hd, hcompl⟩
    · have hsame : (s.popTurn.raise .errIllegal).readValid j = s.readValid j := rfl
      rw [hsame]
      cases s.readValid j <;> simp
    · refine ⟨fun h1 h0 => ?_, fun h0 h1 => ⟨c, i, ha, hc, hd, hcompl.sets_valid h0 h1⟩⟩
      exact absurd ((hcompl.readValid_of_valid h1).symm.trans h0) (by decide)
  · exact ⟨fun _ _ => ht, fun _ h1 => absurd (h1.symm.trans (u.readValid_hardReset j)) (by decide)⟩

/-- Settles O45: of the completions GETVAL's alone writes RESULT, and of the other effects hardware reset alone. -/
theorem resultWriters : Obligations.ResultWriters := by
  refine ⟨fun s t h hne => ?_, fun _ => rfl⟩
  rcases (stepEffect_of_step h).valid_result_cases with ⟨-, hresult⟩ | ⟨c, ha, hc, hrun⟩ | ⟨ht, u, rfl⟩
  · exact absurd hresult hne
  · rcases runCommand_cases hrun with rfl | ⟨i, hd, hcompl⟩
    · exact absurd rfl hne
    · obtain ⟨hi, herr, hresult⟩ := hcompl.changes_result hne
      exact .inl ⟨c, dest i, ha, hc, hi ▸ hd, herr, hresult⟩
  · exact .inr ⟨ht, rfl⟩

/-! No command reads STATUS.ERR. -/

theorem checksOf_setErr (i : Instr) (s : State) (e : BitVec 4) :
    checksOf i { s with err := e } = checksOf i s := by
  cases i <;> rfl

theorem State.fold_setErr (s : State) (e : BitVec 4) (r : Word) (off len : Nat) :
    ({ s with err := e } : State).fold r off len = s.fold r off len :=
  State.fold_frame (s := s) (t := { s with err := e }) rfl rfl rfl r off len

/-- The body of an instruction carries STATUS.ERR along. -/
theorem bodyOf_setErr (i : Instr) (s : State) (e : BitVec 4) :
    bodyOf i { s with err := e } = { bodyOf i s with err := e } := by
  cases i with
  | new | reset | getval | combine => rfl
  | newu | update =>
    simp only [bodyOf, State.fold_setErr]
    rfl

theorem exec_setErr (i : Instr) (s : State) (e : BitVec 4) : exec i { s with err := e } = exec i s := by
  rw [exec_eq_perform, exec_eq_perform, checksOf_setErr]
  rcases s.perform_cases (firstError (checksOf i s)) (bodyOf i) with ⟨he, h⟩ | ⟨he, h⟩
  · rw [h, State.perform_fail _ he]
    rfl
  · rw [h, he, State.perform_ok, bodyOf_setErr]
    rfl

/-- Settles O46: the checks do not read STATUS.ERR, and the completion overwrites what a body carries along. -/
theorem noDependenceOnOutcome : Obligations.NoDependenceOnOutcome := by
  intro c s e
  cases hd : decode c with
  | error why =>
    rw [runCommand_of_error hd, runCommand_of_error hd]
    rfl
  | ok i => rw [runCommand_of_ok hd, runCommand_of_ok hd, exec_setErr]

/-! States that agree on every valid slot. -/

/-- The states that differ from `s` in ACC alone, and there at most where VALID = 0. -/
inductive AgreeOnValid (s : State) : State → Prop where
  | mk (acc : Vector Word 16) (h : ∀ k, s.readValid k = true → acc.getD k 0 = s.readAcc k) :
      AgreeOnValid s { s with acc := acc }

theorem agreeOnValid_writeAcc {s : State} {j : Nat} (h : s.readValid j = false) (v : Word) :
    AgreeOnValid s (s.writeAcc j v) := by
  refine .mk _ fun k hk => s.readAcc_writeAcc_other (fun hkj => ?_) v
  rw [hkj, h] at hk
  cases hk

theorem AgreeOnValid.readAcc_eq {s u : State} (h : AgreeOnValid s u) {k : Nat} (hk : s.readValid k = true) :
    u.readAcc k = s.readAcc k := by
  obtain ⟨acc, hacc⟩ := h
  exact hacc k hk

theorem AgreeOnValid.external_eq {s u : State} (h : AgreeOnValid s u) {k : Nat} (hk : s.readValid k = true) :
    u.external k = s.external k :=
  congrArg (· ^^^ allOnes) (h.readAcc_eq hk)

theorem AgreeOnValid.fold_eq {s u : State} (h : AgreeOnValid s u) (r : Word) (off len : Nat) :
    u.fold r off len = s.fold r off len := by
  obtain ⟨acc, -⟩ := h
  exact State.fold_frame (s := s) (t := { s with acc := acc }) rfl rfl rfl r off len

theorem AgreeOnValid.checks_eq {s u : State} (h : AgreeOnValid s u) (i : Instr) :
    checksOf i u = checksOf i s := by
  obtain ⟨acc, -⟩ := h
  cases i <;> rfl

theorem AgreeOnValid.complete {s u : State} (h : AgreeOnValid s u) (e : ErrCode) :
    AgreeOnValid (s.complete e) (u.complete e) := by
  obtain ⟨acc, hacc⟩ := h
  exact .mk acc hacc

theorem AgreeOnValid.setResult {s u : State} (h : AgreeOnValid s u) (v : Word) :
    AgreeOnValid { s with result := v } { u with result := v } := by
  obtain ⟨acc, hacc⟩ := h
  exact .mk acc hacc

/-- After the same write two registers agree where they agreed before, and at the written place. -/
theorem getD_setIfInBounds_congr {xs ys : Vector Word 16} {d k : Nat} (hk : k < 16)
    (h : k ≠ d → xs.getD k 0 = ys.getD k 0) (v : Word) :
    (xs.setIfInBounds d v).getD k 0 = (ys.setIfInBounds d v).getD k 0 := by
  by_cases hkd : k = d
  · subst hkd
    rw [getD_setIfInBounds_same xs hk, getD_setIfInBounds_same ys hk]
  · rw [getD_setIfInBounds_other xs hkd, getD_setIfInBounds_other ys hkd, h hkd]

theorem AgreeOnValid.create {s u : State} (h : AgreeOnValid s u) (d : Nat) (v : Word) :
    AgreeOnValid (s.create d v) (u.create d v) := by
  obtain ⟨acc, hacc⟩ := h
  refine .mk _ fun k hk => getD_setIfInBounds_congr (State.readValid_lt hk) (fun hkd => ?_) v
  rw [s.readValid_create_other hkd] at hk
  exact hacc k hk

theorem AgreeOnValid.writeAcc {s u : State} (h : AgreeOnValid s u) (d : Nat) (v : Word) :
    AgreeOnValid (s.writeAcc d v) (u.writeAcc d v) := by
  obtain ⟨acc, hacc⟩ := h
  exact .mk _ fun k hk => getD_setIfInBounds_congr (State.readValid_lt hk) (fun _ => hacc k hk) v

/-- The checks of UPDATE, GETVAL and COMBINE let only valid slots be read (R129), so a body keeps the agreement. -/
theorem AgreeOnValid.body {s u : State} (h : AgreeOnValid s u) {i : Instr}
    (hok : firstError (checksOf i s) = .ok) : AgreeOnValid (bodyOf i s) (bodyOf i u) := by
  cases i with
  | new d => exact h.create d _
  | reset d => exact h.create d _
  | newu d off len =>
    simp only [bodyOf, h.fold_eq]
    exact h.create d _
  | update d off len =>
    have ⟨_, hd, _⟩ : s.noSlot d = false ∧ s.readValid d = true ∧ s.rangeBad off len = false := by
      simpa [checksOf, firstError_cons_eq_ok, firstError_nil, State.uninit] using hok
    simp only [bodyOf, h.fold_eq, h.readAcc_eq hd]
    exact h.writeAcc d _
  | getval d =>
    have ⟨_, hd⟩ : s.noSlot d = false ∧ s.readValid d = true := by
      simpa [checksOf, firstError_cons_eq_ok, firstError_nil, State.uninit] using hok
    simp only [bodyOf, h.external_eq hd]
    exact h.setResult _
  | combine d a b lenB =>
    have ⟨_, _, ⟨ha, hb⟩, _⟩ : s.noSlot d = false ∧ (s.noSlot a = false ∧ s.noSlot b = false) ∧
        (s.readValid a = true ∧ s.readValid b = true) ∧ (d ≠ a ∧ d ≠ b) ∧ lengthBad lenB = false := by
      simpa [checksOf, firstError_cons_eq_ok, firstError_nil, State.uninit] using hok
    simp only [bodyOf, h.external_eq ha, h.external_eq hb]
    exact h.create d _

theorem AgreeOnValid.runCommand {s u t : State} (h : AgreeOnValid s u) {c : Command}
    (hs : runCommand c s = .next t) : ∃ t', runCommand c u = .next t' ∧ AgreeOnValid t t' := by
  cases hd : decode c with
  | error why =>
    rw [runCommand_of_error hd] at hs
    cases hs
    exact ⟨_, runCommand_of_error hd u, h.complete _⟩
  | ok i =>
    rw [runCommand_of_ok hd, exec_eq_perform] at hs
    rw [runCommand_of_ok hd, exec_eq_perform, h.checks_eq]
    rcases s.perform_cases (firstError (checksOf i s)) (bodyOf i) with ⟨he, hp⟩ | ⟨he, hp⟩
    all_goals rw [hp] at hs; cases hs
    · exact ⟨_, u.perform_fail he _, h.complete _⟩
    · rw [he]
      exact ⟨_, u.perform_ok _, (h.body he).complete _⟩

/-- Settles O47: a write to an invalid slot keeps the agreement on the valid ones, and so does every command. -/
theorem invalidSlotUnobservable : Obligations.InvalidSlotUnobservable := by
  intro c s t j v hj h
  obtain ⟨u, hu, hag⟩ := (agreeOnValid_writeAcc hj v).runCommand h
  refine ⟨u, hu, ?_, ?_, ?_, fun k hk => hag.readAcc_eq hk⟩
  all_goals
    obtain ⟨acc, -⟩ := hag
    rfl

/-! The host's turn and the port's. -/

theorem step_of_host_turn {s u : State} {ts : List Agent} {m : Option HostMove} (h : s.turns = .host :: ts)
    (hn : ({ s with turns := ts } : State).hostNext = (m, u)) : step s = moveTurn (m, u) := by
  rw [step_of_turns h, State.takeTurn, hn]

theorem step_of_port_turn {s u : State} {ts : List Agent} {m : Option HostMove} (h : s.turns = .port :: ts)
    (hn : ({ s with turns := ts } : State).portNext = (m, u)) : step s = moveTurn (m, u) := by
  rw [step_of_turns h, State.takeTurn, hn]

theorem State.portOpen_eq_true {s : State} : s.portOpen = true ↔ s.busy = false ∧ s.tableReady = true := by
  simp [State.portOpen]

theorem State.portOpen_eq_false {s : State} : s.portOpen = false ↔ s.busy = true ∨ s.tableReady = false := by
  cases hb : s.busy <;> simp [State.portOpen, hb]

/-- Settles O48, by what the host's and the port's turn do with a move that is enabled, not enabled or kept back. -/
theorem commandAcceptance : Obligations.CommandAcceptance := by
  intro s ts c rest
  refine ⟨fun hturns hmoves => ⟨fun hheld hbusy hready => ?_, fun hheld hclosed => ?_, fun c' hheld => ?_⟩,
    fun hturns hheld => ⟨fun hbusy hready => ?_, fun hclosed => ?_⟩⟩
  · exact step_of_host_turn hturns
      (State.hostNext_take hmoves (State.portOpen_eq_true.2 ⟨hbusy, hready⟩) (State.keptBack_free hheld _))
  · exact step_of_host_turn hturns (State.hostNext_hold hmoves (State.portOpen_eq_false.2 hclosed) hheld)
  · have hkept : ({ s with turns := ts } : State).keptBack (.issue c) = true := by
      simp [State.keptBack, hheld, HostMove.holdable]
    exact step_of_host_turn hturns (State.hostNext_keep hmoves hheld (.inr hkept))
  · exact step_of_port_turn hturns (State.portNext_take hheld (State.portOpen_eq_true.2 ⟨hbusy, hready⟩))
  · exact step_of_port_turn hturns (State.portNext_stay hheld (State.portOpen_eq_false.2 hclosed))

/-- Settles O53: the effects a step can have with BUSY = 1; a BUF write and an acceptance need BUSY = 0. -/
theorem commandInFlight : Obligations.CommandInFlight := by
  intro s t c hc h
  have hbusy : s.busy = true := by simp [State.busy, hc]
  cases stepEffect_of_step h with
  | generated ha =>
    have hflight : s.popTurn.generatorStep.inFlight = some c := s.popTurn.generatorStep_inFlight.trans hc
    exact .inl ⟨hflight, by simp [State.busy, hc], by simp [SameRegisters]⟩
  | completed c' ha hc' hrun =>
    cases hc.symm.trans hc'
    exact .inr (.inl ⟨ha, hrun, busy_of_runCommand hrun⟩)
  | idle hu => exact .inl ⟨hu.inFlight_eq.trans hc, hu.busy_eq.trans hbusy, hu.sameRegisters⟩
  | hostRead r hu => exact .inl ⟨hu.inFlight_eq.trans hc, hu.busy_eq.trans hbusy, hu.sameRegisters⟩
  | reset hu ht => exact .inr (.inr ⟨ht, rfl, rfl⟩)
  | bufWritten a v hu ha he => simp [State.enabled, hu.busy_eq, hbusy] at he
  | accepted c' hu ho => simp [State.portOpen, hu.busy_eq, hbusy] at ho

/-- Settles O54: a read is always enabled and never kept back; the layout is `statusWord`'s, field by field. -/
theorem hostReadsRegister : Obligations.HostReadsRegister := by
  intro s ts r rest hturns hmoves
  refine ⟨?_, rfl, s.statusWord, rfl, s.statusWord_busy, s.statusWord_tableReady, s.statusWord_reserved_low,
    s.statusWord_err, s.statusWord_reserved_high⟩
  exact step_of_host_turn hturns (State.hostNext_take hmoves rfl (State.keptBack_of_not_holdable _ rfl))

end Sys2Proof.Machine

/-! PROOFS, 20_memory.md. What a fold reads, and the bounds check of NEWU and UPDATE. -/

namespace Sys2Proof.Machine

/-! The fold as a fold over the bytes of its range. -/

/-- The range of a fold begins with its first byte; the other bytes are the range one address further on. -/
theorem State.bytesAt_succ (s : State) (off len : Nat) :
    s.bytesAt off (len + 1) = s.bufRead off :: s.bytesAt (off + 1) len := by
  simp [State.bytesAt, List.range_succ_eq_map, Function.comp_def, Nat.add_assoc, Nat.add_comm 1]

theorem State.fold_eq_foldl_bytesAt (s : State) (r : Word) (off len : Nat) :
    s.fold r off len = (s.bytesAt off len).foldl s.crcStep r := by
  induction len generalizing r off with
  | zero => rfl
  | succ n ih => rw [State.fold_succ, State.bytesAt_succ, List.foldl_cons, ih]

theorem genTable_getElem (b : Byte) : genTable[b.toNat]'b.isLt = gen b := by
  simp [genTable]

theorem State.tableEntry_of_built {s : State} (h : s.table = genTable) (b : Byte) : s.tableEntry b = gen b := by
  simp only [State.tableEntry, h, genTable_getElem]

/-- With `gen`'s table the machine's update step is the step of `crcFold`. -/
theorem State.foldl_crcStep_of_built {s : State} (h : s.table = genTable) (r : Word) (bs : List Byte) :
    bs.foldl s.crcStep r = crcFold r bs :=
  List.foldl_ext _ _ _ fun r' b _ => by rw [State.crcStep, State.tableEntry_of_built h]

theorem State.fold_of_built {s : State} (h : s.table = genTable) (r : Word) (off len : Nat) :
    s.fold r off len = crcFold r (s.bytesAt off len) := by
  rw [s.fold_eq_foldl_bytesAt, State.foldl_crcStep_of_built h]

/-- Settles O15: by induction on the length; the invariant gives that a ready table is `gen`'s. -/
theorem foldReadsBytesInOrder : Obligations.FoldReadsBytesInOrder := fun s r off len =>
  ⟨s.fold_eq_foldl_bytesAt r off len, fun hi hready => State.fold_of_built (hi.tableBuilt hready) r off len⟩

/-! An instruction by the outcome of its checks. -/

theorem exec_of_checks_ok {i : Instr} {s : State} (h : firstError (checksOf i s) = .ok) :
    exec i s = .next ((bodyOf i s).complete .ok) := by
  rw [exec_eq_perform, h, State.perform_ok]

theorem failsWith_of_checks {i : Instr} {s : State} {e : ErrCode} (h : firstError (checksOf i s) = e) (he : e ≠ .ok) :
    FailsWith s i e.code := by
  rw [FailsWith, exec_eq_perform, h, State.perform_fail _ he]
  rfl

theorem State.uninit_eq_false {s : State} {i : Nat} : s.uninit i = false ↔ s.readValid i = true := by
  simp [State.uninit]

theorem State.rangeBad_eq_true {s : State} {off len : Word} :
    s.rangeBad off len = true ↔ s.cfg.bufSize < off.toNat + len.toNat := by
  simp [State.rangeBad]

/-- For a real slot the bounds check alone decides NEWU. -/
theorem checks_newu {s : State} {d : Nat} (hd : d < s.cfg.nAcc) (off len : Word) :
    firstError (checksOf (.newu d off len) s) = if s.rangeBad off len then .errRange else .ok := by
  simp only [checksOf, State.noSlot_eq_false.2 hd, firstError_cons_false]
  rfl

/-- For a real slot that holds an accumulator the bounds check alone decides UPDATE. -/
theorem checks_update {s : State} {d : Nat} (hd : d < s.cfg.nAcc) (hv : s.readValid d = true) (off len : Word) :
    firstError (checksOf (.update d off len) s) = if s.rangeBad off len then .errRange else .ok := by
  simp only [checksOf, State.noSlot_eq_false.2 hd, State.uninit_eq_false.2 hv, firstError_cons_false]
  rfl

theorem State.writeAcc_readAcc (s : State) (d : Nat) : s.writeAcc d (s.readAcc d) = s := by
  have hacc : s.acc.setIfInBounds d (s.readAcc d) = s.acc := by
    ext k hk
    by_cases hkd : d = k
    · subst hkd
      simp [State.readAcc, Vector.getD, hk]
    · rw [Vector.getElem_setIfInBounds_ne hk hkd]
  rw [State.writeAcc, hacc]

/-- A fold of no bytes is the old register, so UPDATE writes back what it read. -/
theorem bodyOf_update_zero (s : State) (d : Nat) (off : Word) : bodyOf (.update d off 0) s = s :=
  s.writeAcc_readAcc d

/-- Settles O28: for a slot that passes the checks before it, `rangeBad` decides both commands. -/
theorem rangeCheck : Obligations.RangeCheck := by
  intro s d off len _ hd
  refine ⟨fun hout => ?_, fun hin => ?_, fun hoff hv => ?_⟩
  · have hbad := State.rangeBad_eq_true.2 hout
    refine ⟨failsWith_of_checks (e := .errRange) ?_ (by decide),
      fun hv => failsWith_of_checks (e := .errRange) ?_ (by decide)⟩
    · rw [checks_newu hd, if_pos hbad]
    · rw [checks_update hd hv, if_pos hbad]
  · have hgood := State.rangeBad_eq_false.2 hin
    refine ⟨⟨_, exec_of_checks_ok ?_, rfl⟩, fun hv => ⟨_, exec_of_checks_ok ?_, rfl⟩⟩
    · rw [checks_newu hd, hgood]
      rfl
    · rw [checks_update hd hv, hgood]
      rfl
  · have hgood : s.rangeBad off 0 = false := State.rangeBad_eq_false.2 hoff
    have hok : firstError (checksOf (.update d off 0) s) = .ok := by
      rw [checks_update hd hv, hgood]
      rfl
    rw [exec_of_checks_ok hok, bodyOf_update_zero]
    rfl

end Sys2Proof.Machine

/-! PROOFS, 30_encoding.md. The fields of R57 determine a command word; which words decode, said once by the fields and
once by the rows of R60; then the statements, and the host's WAIT. -/

namespace Sys2Proof.Machine

open Sys2Proof.Laws

/-! The fields of a command word. -/

/-- A field of a command word, bit by bit of the word. -/
theorem getLsbD_eq_of_field_eq {v w : CmdWord} {start len i : Nat}
    (h : v.extractLsb' start len = w.extractLsb' start len) (hlo : start ≤ i) (hhi : i < start + len) :
    v.getLsbD i = w.getLsbD i := by
  have hbit := congrArg (·.getLsbD (i - start)) h
  simpa [show i - start < len by omega, show start + (i - start) = i by omega] using hbit

/-- The fields of R57 cover the command word. -/
theorem cmdWord_ext {v w : CmdWord} (hop : fieldOp v = fieldOp w) (hres0 : fieldRes0 v = fieldRes0 w)
    (hd : fieldD v = fieldD w) (hab : fieldAB v = fieldAB w) (hres1 : fieldRes1 v = fieldRes1 w) : v = w := by
  apply BitVec.eq_of_getLsbD_eq
  intro i hi
  by_cases h4 : i < 4
  · exact getLsbD_eq_of_field_eq hop (by omega) (by omega)
  by_cases h8 : i < 8
  · exact getLsbD_eq_of_field_eq hres0 (by omega) (by omega)
  by_cases h12 : i < 12
  · exact getLsbD_eq_of_field_eq (BitVec.eq_of_toNat_eq hd) (by omega) (by omega)
  by_cases h20 : i < 20
  · exact getLsbD_eq_of_field_eq hab (by omega) (by omega)
  · exact getLsbD_eq_of_field_eq hres1 (by omega) (by omega)

/-- cw[19:12] is the A field with the B field above it. -/
theorem fieldAB_eq_of_fieldA_fieldB {v w : CmdWord} (ha : fieldA v = fieldA w) (hb : fieldB v = fieldB w) :
    fieldAB v = fieldAB w := by
  apply BitVec.eq_of_getLsbD_eq
  intro i hi
  simp only [fieldAB, BitVec.getLsbD_extractLsb', hi, decide_true, Bool.true_and]
  by_cases h4 : i < 4
  · exact getLsbD_eq_of_field_eq (BitVec.eq_of_toNat_eq ha) (by omega) (by omega)
  · exact getLsbD_eq_of_field_eq (BitVec.eq_of_toNat_eq hb) (by omega) (by omega)

/-! Decoding an encoding, and encoding what was decoded. -/

theorem slotFits_eq_true {i : Nat} : slotFits i = true ↔ i < 16 := decide_eq_true_iff

theorem Instr.wf_combine {d a b : Nat} {lenB : Word} :
    (Instr.combine d a b lenB).wf = true ↔ d < 16 ∧ a < 16 ∧ b < 16 := by
  simp [Instr.wf, slotFits_eq_true, and_assoc]

/-- Settles O2: the decoder reads each field that the encoder placed. -/
theorem decodeEncodeRoundTrip : Obligations.DecodeEncodeRoundTrip := by
  intro i hwf
  cases i with
  | combine d a b lenB =>
    obtain ⟨hd, ha, hb⟩ := Instr.wf_combine.1 hwf
    simp [decode, encode, fieldOp_cmdWord, fieldRes0_cmdWord, fieldRes1_cmdWord, fieldD_cmdWord, fieldA_cmdWord,
      fieldB_cmdWord, hd, ha, hb]
  | new d | newu d | update d | reset d | getval d =>
    have hd : d < 16 := slotFits_eq_true.1 hwf
    simp [decode, encode, fieldOp_cmdWord, fieldRes0_cmdWord, fieldRes1_cmdWord, fieldAB_cmdWord, fieldD_cmdWord, hd]

theorem wf_of_decode {c : Command} {i : Instr} (h : decode c = .ok i) : i.wf = true := by
  obtain ⟨-, -, ⟨-, rfl⟩ | ⟨-, ⟨-, rfl⟩ | ⟨-, rfl⟩ | ⟨-, rfl⟩ | ⟨-, rfl⟩ | ⟨-, rfl⟩⟩⟩ := decode_ok_cases h
  · exact Instr.wf_combine.2 ⟨fieldD_lt _, fieldA_lt _, fieldB_lt _⟩
  all_goals exact slotFits_eq_true.2 (fieldD_lt _)

/-- A word without A and B fields is the encoder's word of its opcode and slot. -/
theorem cmdWord_of_single_fields {cw : CmdWord} {op : BitVec 4} (hop : fieldOp cw = op) (hres0 : fieldRes0 cw = 0)
    (hab : fieldAB cw = 0) (hres1 : fieldRes1 cw = 0) : cmdWord op (fieldD cw) 0 0 = cw :=
  cmdWord_ext (by rw [fieldOp_cmdWord, hop]) (by rw [fieldRes0_cmdWord, hres0])
    (fieldD_cmdWord op 0 0 (fieldD_lt cw)) (by rw [fieldAB_cmdWord, hab]) (by rw [fieldRes1_cmdWord, hres1])

/-- A word whose reserved fields are 0 is the encoder's word of its opcode and slots. -/
theorem cmdWord_of_fields {cw : CmdWord} {op : BitVec 4} (hop : fieldOp cw = op) (hres0 : fieldRes0 cw = 0)
    (hres1 : fieldRes1 cw = 0) : cmdWord op (fieldD cw) (fieldA cw) (fieldB cw) = cw :=
  cmdWord_ext (by rw [fieldOp_cmdWord, hop]) (by rw [fieldRes0_cmdWord, hres0]) (fieldD_cmdWord op _ _ (fieldD_lt cw))
    (fieldAB_eq_of_fieldA_fieldB (fieldA_cmdWord op _ _ (fieldA_lt cw)) (fieldB_cmdWord op _ _ (fieldB_lt cw)))
    (by rw [fieldRes1_cmdWord, hres1])

theorem encode_cw_of_decode {c : Command} {i : Instr} (h : decode c = .ok i) : (encode i).cw = c.cw := by
  obtain ⟨hres0, hres1, ⟨hop, rfl⟩ | ⟨hab, hrow⟩⟩ := decode_ok_cases h
  · exact cmdWord_of_fields hop hres0 hres1
  · obtain ⟨hop, rfl⟩ | ⟨hop, rfl⟩ | ⟨hop, rfl⟩ | ⟨hop, rfl⟩ | ⟨hop, rfl⟩ := hrow
    all_goals exact cmdWord_of_single_fields hop hres0 hab hres1

/-- NEWU and UPDATE take both operand words whole (R59). -/
theorem operands_of_decode {c : Command} {d : Nat} {off len : Word}
    (h : decode c = .ok (.newu d off len) ∨ decode c = .ok (.update d off len)) : off = c.x ∧ len = c.y := by
  rcases h with h | h
  all_goals
    obtain ⟨-, -, ⟨-, hi⟩ | ⟨-, ⟨-, hi⟩ | ⟨-, hi⟩ | ⟨-, hi⟩ | ⟨-, hi⟩ | ⟨-, hi⟩⟩⟩ := decode_ok_cases h
    all_goals cases hi
    exact ⟨rfl, rfl⟩

/-- COMBINE takes X whole (R59). -/
theorem lenB_of_decode {c : Command} {d a b : Nat} {lenB : Word} (h : decode c = .ok (.combine d a b lenB)) :
    lenB = c.x := by
  obtain ⟨-, -, ⟨-, hi⟩ | ⟨-, ⟨-, hi⟩ | ⟨-, hi⟩ | ⟨-, hi⟩ | ⟨-, hi⟩ | ⟨-, hi⟩⟩⟩ := decode_ok_cases h
  all_goals cases hi
  rfl

/-- Settles O3: the fields of a decoded word are those of the encoder's word, and a word is its fields. -/
theorem encodeDecodeRoundTrip : Obligations.EncodeDecodeRoundTrip := by
  intro c i h
  refine ⟨wf_of_decode h, encode_cw_of_decode h, fun d off len hi => ?_, fun d a b lenB hi => ?_⟩
  · exact operands_of_decode (hi.imp (fun hi => hi ▸ h) (fun hi => hi ▸ h))
  · exact lenB_of_decode (hi ▸ h)

/-! Which words decode, by the rows of R60. -/

/-- A field that the mask keeps is the pattern's. -/
theorem extractLsb'_eq_of_and_eq {cw mask pattern : CmdWord} {start len : Nat} (h : cw &&& mask = pattern)
    (hkeep : mask.extractLsb' start len = BitVec.allOnes len) :
    cw.extractLsb' start len = pattern.extractLsb' start len := by
  rw [← h, BitVec.extractLsb'_and, hkeep, BitVec.and_allOnes]

/-- The mask of a row other than COMBINE's keeps every field but D. -/
theorem fields_of_and_single {cw : CmdWord} {op : BitVec 4} (h : cw &&& 0xFFFFF0FF = cmdWord op 0 0 0) :
    fieldOp cw = op ∧ fieldRes0 cw = 0 ∧ fieldAB cw = 0 ∧ fieldRes1 cw = 0 :=
  ⟨(extractLsb'_eq_of_and_eq h (by decide)).trans (fieldOp_cmdWord op 0 0 0),
    (extractLsb'_eq_of_and_eq h (by decide)).trans (fieldRes0_cmdWord op 0 0 0),
    (extractLsb'_eq_of_and_eq h (by decide)).trans (fieldAB_cmdWord op 0),
    (extractLsb'_eq_of_and_eq h (by decide)).trans (fieldRes1_cmdWord op 0 0 0)⟩

/-- COMBINE's mask keeps the opcode and the reserved fields. -/
theorem fields_of_and_combine {cw : CmdWord} {op : BitVec 4} (h : cw &&& 0xFFF000FF = cmdWord op 0 0 0) :
    fieldOp cw = op ∧ fieldRes0 cw = 0 ∧ fieldRes1 cw = 0 :=
  ⟨(extractLsb'_eq_of_and_eq h (by decide)).trans (fieldOp_cmdWord op 0 0 0),
    (extractLsb'_eq_of_and_eq h (by decide)).trans (fieldRes0_cmdWord op 0 0 0),
    (extractLsb'_eq_of_and_eq h (by decide)).trans (fieldRes1_cmdWord op 0 0 0)⟩

/-- `decode_ok_cases` and its converse. -/
theorem decode_eq_ok_iff {c : Command} {i : Instr} : decode c = .ok i ↔
    fieldRes0 c.cw = 0 ∧ fieldRes1 c.cw = 0 ∧
    ((fieldOp c.cw = 0x6 ∧ i = .combine (fieldD c.cw) (fieldA c.cw) (fieldB c.cw) c.x) ∨
     (fieldAB c.cw = 0 ∧
      ((fieldOp c.cw = 0x1 ∧ i = .new (fieldD c.cw)) ∨ (fieldOp c.cw = 0x2 ∧ i = .newu (fieldD c.cw) c.x c.y) ∨
       (fieldOp c.cw = 0x3 ∧ i = .update (fieldD c.cw) c.x c.y) ∨ (fieldOp c.cw = 0x4 ∧ i = .reset (fieldD c.cw)) ∨
       (fieldOp c.cw = 0x5 ∧ i = .getval (fieldD c.cw))))) := by
  refine ⟨decode_ok_cases, ?_⟩
  rintro ⟨hres0, hres1, ⟨hop, rfl⟩ | ⟨hab, hrow⟩⟩
  · simp [decode, hres0, hres1, hop]
  · rcases hrow with ⟨hop, rfl⟩ | ⟨hop, rfl⟩ | ⟨hop, rfl⟩ | ⟨hop, rfl⟩ | ⟨hop, rfl⟩
    all_goals simp [decode, hres0, hres1, hab, hop]

/-- A word that a row accepts decodes to an instruction of the row. -/
theorem decode_of_row {c : Command} {r : OpcodeRow} (hr : r ∈ opcodeRows) (h : c.cw &&& r.mask = r.pattern) :
    ∃ i, decode c = .ok i ∧ i.mnemonic = r.mnemonic := by
  simp only [opcodeRows, List.mem_cons, List.not_mem_nil, or_false] at hr
  rcases hr with rfl | rfl | rfl | rfl | rfl | rfl
  · obtain ⟨hop, hres0, hab, hres1⟩ := fields_of_and_single (op := 1) h
    exact ⟨_, decode_eq_ok_iff.2 ⟨hres0, hres1, .inr ⟨hab, .inl ⟨hop, rfl⟩⟩⟩, rfl⟩
  · obtain ⟨hop, hres0, hab, hres1⟩ := fields_of_and_single (op := 2) h
    exact ⟨_, decode_eq_ok_iff.2 ⟨hres0, hres1, .inr ⟨hab, .inr (.inl ⟨hop, rfl⟩)⟩⟩, rfl⟩
  · obtain ⟨hop, hres0, hab, hres1⟩ := fields_of_and_single (op := 3) h
    exact ⟨_, decode_eq_ok_iff.2 ⟨hres0, hres1, .inr ⟨hab, .inr (.inr (.inl ⟨hop, rfl⟩))⟩⟩, rfl⟩
  · obtain ⟨hop, hres0, hab, hres1⟩ := fields_of_and_single (op := 4) h
    exact ⟨_, decode_eq_ok_iff.2 ⟨hres0, hres1, .inr ⟨hab, .inr (.inr (.inr (.inl ⟨hop, rfl⟩)))⟩⟩, rfl⟩
  · obtain ⟨hop, hres0, hab, hres1⟩ := fields_of_and_single (op := 5) h
    exact ⟨_, decode_eq_ok_iff.2 ⟨hres0, hres1, .inr ⟨hab, .inr (.inr (.inr (.inr ⟨hop, rfl⟩)))⟩⟩, rfl⟩
  · obtain ⟨hop, hres0, hres1⟩ := fields_of_and_combine (op := 6) h
    exact ⟨_, decode_eq_ok_iff.2 ⟨hres0, hres1, .inl ⟨hop, rfl⟩⟩, rfl⟩

theorem encodedRow (i : Instr) : EncodedRow.Statement i := by
  cases i with
  | new d => exact EncodedRow.new d
  | newu d off len => exact EncodedRow.newu d off len
  | update d off len => exact EncodedRow.update d off len
  | reset d => exact EncodedRow.reset d
  | getval d => exact EncodedRow.getval d
  | combine d a b lenB => exact EncodedRow.combine d a b lenB

/-- A word that decodes is accepted by a row of its instruction's mnemonic: it is the encoder's word. -/
theorem row_of_decode {c : Command} {i : Instr} (h : decode c = .ok i) :
    ∃ r ∈ opcodeRows, r.mnemonic = i.mnemonic ∧ c.cw &&& r.mask = r.pattern := by
  obtain ⟨r, hr, hname, haccepts⟩ := encodedRow i
  rw [encode_cw_of_decode h] at haccepts
  exact ⟨r, hr, hname, beq_iff_eq.1 haccepts⟩

theorem opcodeRow_eq_of_mnemonic_eq {r r' : OpcodeRow} (hr : r ∈ opcodeRows) (hr' : r' ∈ opcodeRows)
    (h : r.mnemonic = r'.mnemonic) : r = r' := by
  have hall : ∀ r ∈ opcodeRows, ∀ r' ∈ opcodeRows, r.mnemonic = r'.mnemonic → r = r' := by decide
  exact hall r hr r' hr' h

/-- Settles O4: a row's words decode to its mnemonic, a decoded word is accepted by a row, and mnemonics tell rows
apart. -/
theorem opcodeRowsAreTheDecoder : Obligations.OpcodeRowsAreTheDecoder := by
  intro c r hr
  refine ⟨⟨decode_of_row hr, ?_⟩, fun r' hr' h h' => ?_⟩
  · rintro ⟨i, hi, hname⟩
    obtain ⟨r', hr', hname', haccepts⟩ := row_of_decode hi
    rwa [opcodeRow_eq_of_mnemonic_eq hr hr' (hname.symm.trans hname'.symm)]
  · obtain ⟨i, hi, hname⟩ := decode_of_row hr h
    obtain ⟨i', hi', hname'⟩ := decode_of_row hr' h'
    cases hi.symm.trans hi'
    exact opcodeRow_eq_of_mnemonic_eq hr hr' (hname.symm.trans hname')

/-! Which words decode, by their fields. -/

/-- The command words that decode (R61, R62), as `exists_decode_iff` shows. -/
abbrev LegalWord (cw : CmdWord) : Prop :=
  fieldRes0 cw = 0 ∧ fieldRes1 cw = 0 ∧ (1 ≤ (fieldOp cw).toNat ∧ (fieldOp cw).toNat ≤ 6) ∧
    (fieldOp cw ≠ 6 → fieldAB cw = 0)

/-- An opcode that is not reserved is that of one of the six instructions. -/
theorem opcode_cases {op : BitVec 4} (hlo : 1 ≤ op.toNat) (hhi : op.toNat ≤ 6) :
    op = 1 ∨ op = 2 ∨ op = 3 ∨ op = 4 ∨ op = 5 ∨ op = 6 := by
  revert op
  decide

theorem exists_decode_iff {c : Command} : (∃ i, decode c = .ok i) ↔ LegalWord c.cw := by
  constructor
  · rintro ⟨i, h⟩
    obtain ⟨hres0, hres1, ⟨hop, -⟩ | ⟨hab, hrow⟩⟩ := decode_ok_cases h
    · exact ⟨hres0, hres1, by rw [hop]; decide, fun h6 => absurd hop h6⟩
    · refine ⟨hres0, hres1, ?_, fun _ => hab⟩
      obtain ⟨hop, -⟩ | ⟨hop, -⟩ | ⟨hop, -⟩ | ⟨hop, -⟩ | ⟨hop, -⟩ := hrow
      all_goals
        rw [hop]
        decide
  · rintro ⟨hres0, hres1, ⟨hlo, hhi⟩, hab⟩
    obtain hop | hop | hop | hop | hop | hop := opcode_cases hlo hhi
    case inr.inr.inr.inr.inr => simp [decode, hres0, hres1, hop]
    all_goals
      have hab0 : fieldAB c.cw = 0 := hab (by rw [hop]; decide)
      simp [decode, hres0, hres1, hab0, hop]

theorem exists_error_iff_not_ok {c : Command} : (∃ why, decode c = .error why) ↔ ¬ ∃ i, decode c = .ok i := by
  cases decode c <;> simp

/-- The operand words never make a command illegal (R62): the condition reads the command word alone. -/
theorem exists_error_iff {c : Command} : (∃ why, decode c = .error why) ↔ ¬ LegalWord c.cw := by
  rw [exists_error_iff_not_ok, exists_decode_iff]

theorem runCommand_of_not_legal {c : Command} (h : ¬ LegalWord c.cw) (s : State) :
    runCommand c s = .next { s with err := 3, inFlight := none } := by
  obtain ⟨why, hwhy⟩ := exists_error_iff.2 h
  exact runCommand_of_error hwhy s

/-- Settles O5: the table and the fields describe the same words. -/
theorem illegalWords : Obligations.IllegalWords := by
  intro cw x y s
  refine ⟨?_, fun hlo hhi => ?_, fun herr => runCommand_of_not_legal (exists_error_iff.1 herr) s, fun x' y' => ?_⟩
  · rw [exists_error_iff_not_ok]
    constructor
    · intro hno r hr haccepts
      obtain ⟨i, hi, -⟩ := decode_of_row (c := ⟨cw, x, y⟩) hr haccepts
      exact hno ⟨i, hi⟩
    · rintro hrows ⟨i, hi⟩
      obtain ⟨r, hr, -, haccepts⟩ := row_of_decode hi
      exact hrows r hr haccepts
  · rw [exists_error_iff]
    change ¬ LegalWord cw ↔ fieldRes0 cw ≠ 0 ∨ fieldRes1 cw ≠ 0 ∨ (fieldOp cw ≠ 6 ∧ fieldAB cw ≠ 0)
    have hop : 1 ≤ (fieldOp cw).toNat ∧ (fieldOp cw).toNat ≤ 6 := ⟨hlo, hhi⟩
    simp only [LegalWord, hop, true_and]
    tauto
  · rw [exists_error_iff, exists_error_iff]

/-- Settles O6: a legal word's OP is 1 to 6. -/
theorem reservedOpcodesFail : Obligations.ReservedOpcodesFail := by
  intro cw x y s hop
  refine runCommand_of_not_legal (fun ⟨_, _, ⟨hlo, hhi⟩, _⟩ => ?_) s
  change 1 ≤ (cw.extractLsb' 0 4).toNat at hlo
  change (cw.extractLsb' 0 4).toNat ≤ 6 at hhi
  rcases hop with h0 | h7
  · rw [h0] at hlo
    exact absurd hlo (by decide)
  · omega

/-! The ignored operand words. -/

theorem runCommand_congr {c c' : Command} (h : decode c = decode c') (s : State) :
    runCommand c s = runCommand c' s := by
  simp only [runCommand, h]

/-- Settles O7: where OP is 1, 4 or 5 no branch of the decoder reads X or Y, and where it is 6 none reads Y. -/
theorem ignoredOperandWords : Obligations.IgnoredOperandWords := by
  intro cw x y x' y' s
  refine ⟨fun h => runCommand_congr ?_ s, fun h6 => runCommand_congr ?_ s⟩
  · obtain hop | hop | hop : fieldOp cw = 1 ∨ fieldOp cw = 4 ∨ fieldOp cw = 5 := h
    all_goals simp [decode, hop]
  · have hop : fieldOp cw = 6 := h6
    simp [decode, hop]

/-- Settles O1: the eight lines by evaluation; none of the five words is legal. -/
theorem workedEncodingsDecode : Obligations.WorkedEncodingsDecode := by
  refine ⟨by decide, fun cw hcw x y s => runCommand_of_not_legal ?_ s⟩
  change ¬ LegalWord cw
  simp only [List.mem_cons, List.not_mem_nil, or_false] at hcw
  rcases hcw with rfl | rfl | rfl | rfl | rfl
  all_goals decide

theorem decode_of_decodeTableWord {nbits w : Nat} {i : Instr} (h : decodeTableWord nbits w = some i) :
    decode (Command.ofTableWord nbits w) = .ok i := by
  unfold decodeTableWord at h
  split at h
  · rename_i i' hi
    cases h
    exact hi
  · cases h

/-- Settles O56: the engine's turn is first, and it runs what the command in flight decodes to. -/
theorem fetchWordRunsNext : Obligations.FetchWordRunsNext := by
  intro s nbits w i h
  have hturns : (s.withFetchWord nbits w).turns = .engine :: s.turns := rfl
  rw [step_of_turns hturns, ← s.generatorStep_turns]
  exact runCommand_of_ok (decode_of_decodeTableWord h) _

/-! WAIT (R66), and the path of a GETVAL whose result the host waits for and reads. -/

theorem run_succ_next {M : Host.Core} {n : Nat} {s t : M.State} (h : M.run (n + 1) s = .next t) :
    ∃ u, M.step s = .next u ∧ M.run n u = .next t := by
  unfold Host.Core.run at h
  split at h
  · rename_i u hu
    exact ⟨u, hu, h⟩
  · cases h
  · cases h

/-- What every step keeps holds in every state a run reaches. -/
theorem run_preserves {P : State → Prop} (hstep : ∀ s t, P s → step s = .next t → P t) {n : Nat} {s t : State}
    (hs : P s) (h : core.run n s = .next t) : P t := by
  induction n generalizing s with
  | zero =>
    cases h
    exact hs
  | succ n ih =>
    obtain ⟨u, hu, hrun⟩ := run_succ_next h
    exact ih (hstep s u hs hu) hrun

theorem State.waitOver_eq_true {s : State} : s.waitOver = true ↔ s.busy = false ∧ s.held = none := by
  simp [State.waitOver]

theorem State.waitOver_eq_false {s : State} : s.waitOver = false ↔ s.busy = true ∨ s.held ≠ none := by
  rw [← Bool.not_eq_true, State.waitOver_eq_true, not_and_or, Bool.not_eq_false]

/-- How far the host and CORE have come with a GETVAL, a WAIT and a read of RESULT. -/
inductive ReadStage where
  /-- The host has not sent the GETVAL. -/
  | issuing
  /-- The port holds the GETVAL. -/
  | held
  /-- The GETVAL is in flight; the host waits. -/
  | flying
  /-- The GETVAL has completed; the host still waits. -/
  | completed
  /-- WAIT is passed. -/
  | reading
  /-- The host has read RESULT. -/
  | done

/-- The state of each stage for a GETVAL `c` of slot `d` from `s`, up to TABLE and the schedule. -/
def State.atStage (s : State) (c : Command) (d : Nat) : ReadStage → State
  | .issuing =>
    { s with held := none, inFlight := none, moves := [.move (.issue c), .wait, .move (.read .result)] }
  | .held => { s with held := some (.issue c), inFlight := none, moves := [.wait, .move (.read .result)] }
  | .flying => { s with held := none, inFlight := some c, moves := [.wait, .move (.read .result)] }
  | .completed =>
    { s with
      held := none, inFlight := none, moves := [.wait, .move (.read .result)], err := 0, result := s.external d }
  | .reading =>
    { s with held := none, inFlight := none, moves := [.move (.read .result)], err := 0, result := s.external d }
  | .done =>
    { s with
      held := none, inFlight := none, moves := [], err := 0, result := s.external d,
      seen := .result (s.external d) :: s.seen }

/-- `s` with another table, ready or not, and another schedule. -/
def State.withSchedule (s : State) (tbl : Vector Word 256) (ready : Bool) (ts : List Agent) : State :=
  { s with table := tbl, tableReady := ready, turns := ts }

/-- The states on the path from `s`: those of the stages, whatever the generator and the schedule have done. -/
inductive OnReadPath (s : State) (c : Command) (d : Nat) : State → Prop where
  | mk (st : ReadStage) (tbl : Vector Word 256) (ready : Bool) (ts : List Agent) :
      OnReadPath s c d ((s.atStage c d st).withSchedule tbl ready ts)

theorem onReadPath_start {s : State} {c : Command} (d : Nat) (hflight : s.inFlight = none) (hheld : s.held = none)
    (hmoves : s.moves = [.move (.issue c), .wait, .move (.read .result)]) : OnReadPath s c d s := by
  have hs : (s.atStage c d .issuing).withSchedule s.table s.tableReady s.turns = s := by
    simp only [State.atStage, ← hflight, ← hheld, ← hmoves]
    rfl
  have hpath := OnReadPath.mk (s := s) (c := c) (d := d) .issuing s.table s.tableReady s.turns
  rwa [hs] at hpath

theorem OnReadPath.popTurn {s u : State} {c : Command} {d : Nat} (h : OnReadPath s c d u) :
    OnReadPath s c d u.popTurn := by
  obtain ⟨st, tbl, ready, ts⟩ := h
  exact .mk st tbl ready ts.tail

theorem OnReadPath.generatorStep {s u : State} {c : Command} {d : Nat} (h : OnReadPath s c d u) :
    OnReadPath s c d u.generatorStep := by
  obtain ⟨st, tbl, ready, ts⟩ := h
  cases ready with
  | true => exact .mk st tbl true ts
  | false => exact .mk st genTable true ts

/-- GETVAL of a valid slot completes with RESULT the external value (R98). -/
theorem exec_getval_of_valid {s : State} {d : Nat} (hd : d < s.cfg.nAcc) (hv : s.readValid d = true) :
    exec (.getval d) s = .next { s with result := s.external d, err := 0, inFlight := none } := by
  have hok : firstError (checksOf (.getval d) s) = .ok := by
    simp only [checksOf, State.noSlot_eq_false.2 hd, State.uninit_eq_false.2 hv, firstError_cons_false]
    rfl
  exact exec_of_checks_ok hok

/-- The engine's turn completes the GETVAL in flight, and does nothing at the other stages. -/
theorem OnReadPath.engineTurn {s u t : State} {c : Command} {d : Nat} (hdec : decode c = .ok (.getval d))
    (hd : d < s.cfg.nAcc) (hv : s.readValid d = true) (h : OnReadPath s c d u) (ht : u.engineTurn = .next t) :
    OnReadPath s c d t := by
  obtain ⟨st, tbl, ready, ts⟩ := h
  cases st with
  | flying =>
    have hrun : ((s.atStage c d .flying).withSchedule tbl ready ts).engineTurn =
        .next ((s.atStage c d .completed).withSchedule tbl ready ts) :=
      (runCommand_of_ok hdec _).trans (exec_getval_of_valid hd hv)
    cases hrun.symm.trans ht
    exact .mk .completed tbl ready ts
  | issuing | held | completed | reading | done =>
    cases ht
    exact .mk _ tbl ready ts

/-- The port's turn lets the held GETVAL be accepted when the port is open. -/
theorem OnReadPath.portTurn {s u t : State} {c : Command} {d : Nat} (h : OnReadPath s c d u)
    (ht : moveTurn u.portNext = .next t) : OnReadPath s c d t := by
  obtain ⟨st, tbl, ready, ts⟩ := h
  cases st with
  | held =>
    cases ready with
    | true =>
      cases ht
      exact .mk .flying tbl true ts
    | false =>
      cases ht
      exact .mk .held tbl false ts
  | issuing | flying | completed | reading | done =>
    cases ht
    exact .mk _ tbl ready ts

/-- The host's turn sends the GETVAL, waits while it is held or in flight, and reads RESULT after that. -/
theorem OnReadPath.hostTurn {s u t : State} {c : Command} {d : Nat} (h : OnReadPath s c d u)
    (ht : moveTurn u.hostNext = .next t) : OnReadPath s c d t := by
  obtain ⟨st, tbl, ready, ts⟩ := h
  cases st with
  | issuing =>
    cases ready with
    | true =>
      cases ht
      exact .mk .flying tbl true ts
    | false =>
      cases ht
      exact .mk .held tbl false ts
  | held | flying | done =>
    cases ht
    exact .mk _ tbl ready ts
  | completed =>
    cases ht
    exact .mk .reading tbl ready ts
  | reading =>
    cases ht
    exact .mk .done tbl ready ts

/-- Whichever agent moves, a step stays on the path. -/
theorem OnReadPath.step {s u t : State} {c : Command} {d : Nat} (hdec : decode c = .ok (.getval d))
    (hd : d < s.cfg.nAcc) (hv : s.readValid d = true) (h : OnReadPath s c d u) (ht : step u = .next t) :
    OnReadPath s c d t := by
  unfold Machine.step at ht
  cases ha : u.agent with
  | generator =>
    rw [ha] at ht
    cases ht
    exact h.popTurn.generatorStep
  | engine =>
    rw [ha] at ht
    exact h.popTurn.engineTurn hdec hd hv ht
  | port =>
    rw [ha] at ht
    exact h.popTurn.portTurn ht
  | host =>
    rw [ha] at ht
    exact h.popTurn.hostTurn ht

/-- On the path the host's lines are used up exactly when it has read RESULT. -/
theorem OnReadPath.seen_eq {s t : State} {c : Command} {d : Nat} (h : OnReadPath s c d t) :
    t.seen = if t.moves = [] then .result (s.external d) :: s.seen else s.seen := by
  obtain ⟨st, tbl, ready, ts⟩ := h
  cases st <;> rfl

/-- Settles O60: what the host's turn does at a WAIT, and the path as an invariant of the run. -/
theorem waitBeforeRead : Obligations.WaitBeforeRead := by
  refine ⟨fun s ts rest hturns hmoves => ⟨fun hwait => ?_, fun hbusy hheld => ?_⟩,
    fun s t c d n hflight hheld hdec hd hv hmoves hrun => ?_⟩
  · exact step_of_host_turn hturns (State.hostNext_wait hmoves (State.waitOver_eq_false.2 hwait))
  · exact step_of_host_turn hturns (State.hostNext_go hmoves (State.waitOver_eq_true.2 ⟨hbusy, hheld⟩))
  · have hstart : OnReadPath s c d s := onReadPath_start d hflight hheld hmoves
    exact (run_preserves (fun u v hu hstep => hu.step hdec hd hv hstep) hstart hrun).seen_eq

end Sys2Proof.Machine

/-! PROOFS, 40_table_generator.md. The generator's turn; then the bit step of `gen`, which is linear and is the matrix S
of 42_combine.md, and the properties of the table that follow (R81). -/

namespace Sys2Proof.Machine

/-- Settles O12: the turn is `State.generatorStep`, whose laws say what it writes by TABLE_READY and that it keeps every
other field. -/
theorem generatorStep : Obligations.GeneratorStep := by
  intro s ts hturns
  refine ⟨({ s with turns := ts } : State).generatorStep, step_of_turns hturns, State.generatorStep_tableReady _,
    fun hnot b => ?_, fun hready => ?_, ?_, fun addr => ?_, ?_⟩
  · refine State.tableEntry_of_built ?_ b
    rw [State.generatorStep_of_not_ready (s := { s with turns := ts }) hnot]
  · rw [State.generatorStep_of_ready (s := { s with turns := ts }) hready]
  · simp [SameRegisters]
  · exact State.bufRead_congr (State.generatorStep_buf _) (State.generatorStep_epoch _) addr
  · simp

/-! The bit step of reflected division (R76, R107). -/

/-- Output bit i is input bit i+1, with bit i of POLY added if bit 0 was shifted out. -/
theorem getLsbD_shift1 (v : Word) (i : Nat) :
    (shift1 v).getLsbD i = (v.getLsbD (i + 1) ^^ (v.getLsbD 0 && poly.getLsbD i)) := by
  rw [shift1]
  split <;> simp_all [Nat.add_comm 1]

theorem shift1_xor (v w : Word) : shift1 (v ^^^ w) = shift1 v ^^^ shift1 w := by
  apply BitVec.eq_of_getLsbD_eq
  intro i _
  simp only [getLsbD_shift1, BitVec.getLsbD_xor, Bool.and_xor_distrib_right, Bool.xor_assoc,
    Bool.xor_left_comm]

/-- The bit shifted out of the bottom is the new top bit, since POLY has its top bit set. -/
theorem getLsbD_shift1_top (v : Word) : (shift1 v).getLsbD 63 = v.getLsbD 0 := by
  have hpoly : poly.getLsbD 63 = true := by decide
  rw [getLsbD_shift1, hpoly, BitVec.getLsbD_of_ge v 64 (Nat.le_refl 64), Bool.and_true, Bool.false_xor]

theorem shiftBits_succ (n : Nat) (v : Word) : shiftBits (n + 1) v = shiftBits n (shift1 v) := rfl

theorem shiftBits_succ' (n : Nat) (v : Word) : shiftBits (n + 1) v = shift1 (shiftBits n v) := by
  induction n generalizing v with
  | zero => rfl
  | succ n ih => rw [shiftBits_succ, ih, shiftBits_succ]

theorem shiftBits_xor (n : Nat) (v w : Word) : shiftBits n (v ^^^ w) = shiftBits n v ^^^ shiftBits n w := by
  induction n generalizing v w with
  | zero => rfl
  | succ n ih => simp only [shiftBits_succ, shift1_xor, ih]

/-- Zero bits shifted out add no POLY. -/
theorem shiftBits_of_low_zero {n : Nat} {v : Word} (h : ∀ i < n, v.getLsbD i = false) : shiftBits n v = v >>> n := by
  induction n with
  | zero => simp [shiftBits]
  | succ n ih =>
    have hout : (v >>> n).getLsbD 0 = false := by
      rw [BitVec.getLsbD_ushiftRight, Nat.add_zero, h n (Nat.lt_succ_self n)]
    rw [shiftBits_succ', ih fun i hi => h i (Nat.lt_succ_of_lt hi), shift1, hout, BitVec.shiftRight_add]
    rfl

/-- A set bit that is shifted out leaves one among the top n bits after n steps. -/
theorem low_zero_of_shiftBits_top_zero {n : Nat} {v : Word} (hn : n ≤ 64)
    (h : ∀ i, 64 ≤ i + n → i < 64 → (shiftBits n v).getLsbD i = false) : ∀ i < n, v.getLsbD i = false := by
  induction n with
  | zero => intro i hi; cases hi
  | succ n ih =>
    have hout : (shiftBits n v).getLsbD 0 = false := by
      rw [← getLsbD_shift1_top, ← shiftBits_succ']
      exact h 63 (by omega) (by omega)
    have htop : ∀ i, 64 ≤ i + n → i < 64 → (shiftBits n v).getLsbD i = false := fun i hi hlt => by
      obtain ⟨k, rfl⟩ : ∃ k, i = k + 1 := ⟨i - 1, by omega⟩
      have hk := h k (by omega) (by omega)
      rwa [shiftBits_succ', getLsbD_shift1, hout, Bool.false_and, Bool.xor_false] at hk
    have hlow := ih (by omega) htop
    rw [shiftBits_of_low_zero hlow] at hout
    intro i hi
    rcases Nat.lt_succ_iff_lt_or_eq.1 hi with hi | rfl
    · exact hlow i hi
    · simpa using hout

/-! The matrices on a vector (R106 to R109). -/

theorem xorBits_xor (n : Nat) (v w : Word) : xorBits n (v ^^^ w) = (xorBits n v ^^ xorBits n w) := by
  induction n with
  | zero => rfl
  | succ n ih => simp only [xorBits, ih, BitVec.getLsbD_xor, Bool.xor_assoc, Bool.xor_left_comm]

theorem xorBits_succ_low (n : Nat) (v : Word) : xorBits (n + 1) v = (v.getLsbD 0 ^^ xorBits n (v >>> 1)) := by
  induction n with
  | zero => simp [xorBits]
  | succ n ih =>
    rw [xorBits, ih, xorBits, BitVec.getLsbD_ushiftRight, Nat.add_comm 1, Bool.xor_left_comm]

theorem getLsbD_twoPow_and (k i : Nat) (v : Word) :
    (BitVec.twoPow 64 k &&& v).getLsbD i = (decide (k = i) && v.getLsbD i) := by
  by_cases hi : i < 64
  · simp [hi, eq_comm]
  · simp [BitVec.getLsbD_of_ge v i (Nat.not_lt.1 hi)]

theorem xorBits_twoPow_and (n k : Nat) (v : Word) :
    xorBits n (BitVec.twoPow 64 k &&& v) = (decide (k < n) && v.getLsbD k) := by
  induction n with
  | zero => simp [xorBits]
  | succ n ih =>
    rw [xorBits, ih, getLsbD_twoPow_and]
    by_cases hk : k = n
    · simp [hk]
    · simp [hk, Nat.le_iff_lt_or_eq]

theorem parity_xor (v w : Word) : parity (v ^^^ w) = (parity v ^^ parity w) := by
  simp only [parity, xorBits_xor]

theorem parity_shiftLeft_and (k : Nat) (v : Word) : parity (1#64 <<< k &&& v) = v.getLsbD k := by
  rw [parity, BitVec.shiftLeft_eq_mul_twoPow, BitVec.one_mul, xorBits_twoPow_and]
  by_cases hk : k < 64
  · simp [hk]
  · simp [BitVec.getLsbD_of_ge v k (Nat.not_lt.1 hk)]

theorem parity_zero_and (v : Word) : parity (0#64 &&& v) = false := by
  rw [BitVec.zero_and, ← BitVec.xor_self (x := v), parity_xor, Bool.xor_self]

theorem parity_ite_one_and (c : Bool) (v : Word) :
    parity ((if c then 1#64 else 0#64) &&& v) = (v.getLsbD 0 && c) := by
  cases c with
  | false => exact (parity_zero_and v).trans (Bool.and_false _).symm
  | true => exact (parity_shiftLeft_and 0 v).trans (Bool.and_true _).symm

theorem getLsbD_applyMatrix (M : Matrix64) (v : Word) {i : Nat} (hi : i < 64) :
    (applyMatrix M v).getLsbD i = parity (M[i] &&& v) := by
  simp [applyMatrix, hi]

theorem applyMatrix_matrixOne (v : Word) : applyMatrix matrixOne v = v := by
  apply BitVec.eq_of_getLsbD_eq
  intro i hi
  rw [getLsbD_applyMatrix _ _ hi]
  simp [matrixOne, parity_shiftLeft_and]

theorem xor_and_distrib (u v w : Word) : (u ^^^ v) &&& w = (u &&& w) ^^^ (v &&& w) := by
  apply BitVec.eq_of_getLsbD_eq
  intro i _
  simp only [BitVec.getLsbD_and, BitVec.getLsbD_xor, Bool.and_xor_distrib_right]

/-- Row i of S: bit i+1, which row 63 does not have, and bit 0 where POLY has bit i (R107). -/
theorem matrixS_getElem (i : Fin 64) :
    matrixS[i] = 1#64 <<< (i.val + 1) ^^^ (if poly.getLsbD i.val then 1#64 else 0#64) := by
  revert i
  decide

theorem applyMatrix_matrixS (v : Word) : applyMatrix matrixS v = shift1 v := by
  apply BitVec.eq_of_getLsbD_eq
  intro i hi
  have hrow := matrixS_getElem ⟨i, hi⟩
  simp only [Fin.getElem_fin] at hrow
  rw [getLsbD_applyMatrix _ _ hi, hrow, xor_and_distrib, parity_xor, parity_shiftLeft_and, parity_ite_one_and,
    getLsbD_shift1]

/-- The sum of the selected rows, applied to v, is the sum of what the selected rows give for v: `w` holds, from bit j
on, what each row gives if `a` selects it. -/
theorem parity_xorSelected_and {rows : List Word} {j : Nat} {a w v : Word}
    (h : ∀ k (hk : k < rows.length), w.getLsbD (j + k) = (a.getLsbD (j + k) && parity (rows[k] &&& v))) :
    parity (xorSelected j rows a &&& v) = xorBits rows.length (w >>> j) := by
  induction rows generalizing j with
  | nil => exact parity_zero_and v
  | cons row rows ih =>
    have hrow : w.getLsbD j = (a.getLsbD j && parity (row &&& v)) := h 0 (Nat.succ_pos _)
    have hrest := ih (j := j + 1) fun k hk => by
      rw [Nat.add_assoc, Nat.add_comm 1]
      exact h (k + 1) (Nat.succ_lt_succ hk)
    rw [xorSelected, List.length_cons, xorBits_succ_low, ← BitVec.shiftRight_add, ← hrest, BitVec.getLsbD_ushiftRight,
      add_zero, hrow]
    cases a.getLsbD j
    · simp
    · simp [xor_and_distrib, parity_xor]

theorem mulMatrix_getElem (A B : Matrix64) {i : Nat} (hi : i < 64) :
    (mulMatrix A B)[i] = xorSelected 0 B.toList A[i] := by
  simp [mulMatrix]

theorem applyMatrix_mulMatrix (A B : Matrix64) (v : Word) :
    applyMatrix (mulMatrix A B) v = applyMatrix A (applyMatrix B v) := by
  apply BitVec.eq_of_getLsbD_eq
  intro i hi
  rw [getLsbD_applyMatrix _ _ hi, getLsbD_applyMatrix _ _ hi, mulMatrix_getElem A B hi,
    parity_xorSelected_and (w := A[i] &&& applyMatrix B v)]
  · simp [parity]
  · intro k hk
    have hk : k < 64 := by simpa using hk
    simp [getLsbD_applyMatrix _ _ hk]

/-- The powers of S are the numbers of bit steps (R110). -/
theorem applyMatrix_powMatrix_matrixS (n : Nat) (v : Word) : applyMatrix (powMatrix matrixS n) v = shiftBits n v := by
  induction n with
  | zero => exact applyMatrix_matrixOne v
  | succ n ih => rw [powMatrix, applyMatrix_mulMatrix, ih, applyMatrix_matrixS, shiftBits_succ']

/-! The properties of the table (R81). -/

theorem gen_xor (x y : Byte) : gen (x ^^^ y) = gen x ^^^ gen y := by
  rw [gen, BitVec.setWidth_xor, shiftBits_xor]
  rfl

/-- The eight steps of gen shift out the whole byte, so its top byte is 0 for the byte 0 alone. -/
theorem eq_zero_of_gen_top_zero {b : Byte} (h : gen b >>> 56 = 0#64) : b = 0 := by
  have htop : ∀ i, 64 ≤ i + 8 → i < 64 → (gen b).getLsbD i = false := fun i hi _ => by
    have hbit := congrArg (BitVec.getLsbD · (i - 56)) h
    rwa [BitVec.getLsbD_ushiftRight, Nat.add_sub_cancel' (by omega), BitVec.getLsbD_zero] at hbit
  have hlow : ∀ i < 8, (b.setWidth 64).getLsbD i = false := low_zero_of_shiftBits_top_zero (by decide) htop
  apply BitVec.eq_of_getLsbD_eq
  intro i hi
  simpa [show i < 64 by omega] using hlow i hi

/-- Settles O13: gen is eight bit steps, each linear and each the matrix S; (d) is linearity and that gen of a nonzero
byte has a nonzero top byte. -/
theorem tableProperties : Obligations.TableProperties := by
  refine ⟨gen_xor, fun b => (applyMatrix_powMatrix_matrixS 8 _).symm, by decide, by decide, fun x y h => ?_⟩
  have htop : gen (x ^^^ y) >>> 56 = 0#64 := by
    rw [gen_xor, BitVec.ushiftRight_xor_distrib, h, BitVec.xor_self]
  exact BitVec.xor_eq_zero_iff.1 (eq_zero_of_gen_top_zero htop)

end Sys2Proof.Machine

/-! PROOFS, 41_accumulator.md. The laws of the fold; each accumulator command where its checks pass, its errors and its
frame, each said once; then the statements about the five commands. -/

namespace Sys2Proof.Machine

open Sys2Proof.Laws

/-! The fold over adjacent ranges and over equal bytes (R91, R92). -/

theorem State.fold_fold (s : State) (r : Word) (off l1 l2 : Nat) :
    s.fold (s.fold r off l1) (off + l1) l2 = s.fold r off (l1 + l2) := by
  induction l1 generalizing r off with
  | zero => rw [State.fold_zero, Nat.add_zero, Nat.zero_add]
  | succ n ih =>
    rw [State.fold_succ, Nat.add_right_comm n 1 l2, State.fold_succ, ← ih, Nat.add_assoc off 1 n, Nat.add_comm 1 n]

theorem State.crcStep_congr {s t : State} (h : t.table = s.table) : t.crcStep = s.crcStep := by
  funext r v
  simp only [State.crcStep, State.tableEntry, h]

/-- Settles O17: a fold is a fold over the bytes of its range, and its step reads TABLE alone. -/
theorem offsetInvariance : Obligations.OffsetInvariance := by
  intro s t r off1 off2 len htable hbytes
  have hrange : t.bytesAt off2 len = s.bytesAt off1 len :=
    List.map_congr_left fun k hk => hbytes k (List.mem_range.1 hk)
  rw [State.fold_eq_foldl_bytesAt, State.fold_eq_foldl_bytesAt, hrange, State.crcStep_congr htable]

/-! The fold as a linear map (R101): a byte is added to the register, and eight bit steps follow. -/

theorem shiftBits_add (m n : Nat) (v : Word) : shiftBits (m + n) v = shiftBits n (shiftBits m v) := by
  induction m generalizing v with
  | zero => rw [Nat.zero_add]; rfl
  | succ m ih => rw [Nat.add_right_comm, shiftBits_succ, ih, shiftBits_succ]

/-- A word is its low byte and the rest of it. -/
theorem setWidth_xor_shift_shift (r : Word) : (r.setWidth 8).setWidth 64 ^^^ (r >>> 8 <<< 8) = r := by
  apply BitVec.eq_of_getLsbD_eq
  intro i hi
  by_cases h8 : i < 8
  · simp [h8, hi]
  · simp [h8, hi, Nat.add_sub_cancel' (Nat.not_lt.1 h8)]

/-- Eight bit steps are the table's entry for the low byte, and the shift of the other bytes. -/
theorem shiftBits_eight (r : Word) : shiftBits 8 r = gen (r.setWidth 8) ^^^ (r >>> 8) := by
  have hhigh : shiftBits 8 (r >>> 8 <<< 8) = r >>> 8 := by
    rw [shiftBits_of_low_zero fun i hi => by simp [hi]]
    apply BitVec.eq_of_getLsbD_eq
    intro i hi
    by_cases h : i + 8 < 64
    · simp [Nat.add_comm 8, h]
    · simp [Nat.add_comm 8, h, BitVec.getLsbD_of_ge r (i + 8) (Nat.not_lt.1 h)]
  conv_lhs => rw [← setWidth_xor_shift_shift r, shiftBits_xor, hhigh]
  rfl

theorem crcFold_nil (r : Word) : crcFold r [] = r := rfl

theorem crcFold_cons (r : Word) (b : Byte) (bs : List Byte) :
    crcFold r (b :: bs) = crcFold (shiftBits 8 (r ^^^ b.setWidth 64)) bs := by
  have hbyte : b.setWidth 64 >>> 8 = 0#64 := by
    apply BitVec.eq_of_getLsbD_eq
    intro i _
    simp
  rw [shiftBits_eight, BitVec.ushiftRight_xor_distrib, hbyte, BitVec.xor_zero]
  rfl

theorem applyMatrix_matrixZ (v : Word) : applyMatrix matrixZ v = shiftBits 8 v := by
  simp only [matrixZ, sqMatrix, applyMatrix_mulMatrix, applyMatrix_matrixS]
  rfl

/-- `Z^n = S^(8n)` (R114). -/
theorem applyMatrix_powMatrix_matrixZ (n : Nat) (v : Word) :
    applyMatrix (powMatrix matrixZ n) v = shiftBits (8 * n) v := by
  induction n with
  | zero => exact applyMatrix_matrixOne v
  | succ n ih => rw [powMatrix, applyMatrix_mulMatrix, ih, applyMatrix_matrixZ, Nat.mul_succ, shiftBits_add]

/-- Two folds of one byte string differ by their registers' difference, moved on by the length: the bytes cancel. -/
theorem crcFold_xor_crcFold (bs : List Byte) (r1 r2 : Word) :
    crcFold r1 bs ^^^ crcFold r2 bs = applyMatrix (powMatrix matrixZ bs.length) (r1 ^^^ r2) := by
  induction bs generalizing r1 r2 with
  | nil => exact (applyMatrix_matrixOne _).symm
  | cons b bs ih =>
    have hcancel : (r1 ^^^ b.setWidth 64) ^^^ (r2 ^^^ b.setWidth 64) = r1 ^^^ r2 := by
      rw [BitVec.xor_comm r2, BitVec.xor_assoc, ← BitVec.xor_assoc (b.setWidth 64), BitVec.xor_self, BitVec.zero_xor]
    rw [crcFold_cons, crcFold_cons, ih, ← shiftBits_xor, hcancel, applyMatrix_powMatrix_matrixZ,
      applyMatrix_powMatrix_matrixZ, List.length_cons, Nat.mul_succ, Nat.add_comm, shiftBits_add]

/-- Settles O18: the second law is the first with the register 0 in the second fold. -/
theorem foldIsLinear : Obligations.FoldIsLinear := by
  intro bs r r1 r2
  refine ⟨crcFold_xor_crcFold bs r1 r2, ?_⟩
  have hzero : crcFold r bs ^^^ crcFold 0 bs = applyMatrix (powMatrix matrixZ bs.length) r :=
    (crcFold_xor_crcFold bs r 0).trans (congrArg _ BitVec.xor_zero)
  rw [← hzero, BitVec.xor_assoc, BitVec.xor_self, BitVec.xor_zero]

/-! Each command where its checks pass. -/

theorem exec_new_of_slot {s : State} {d : Nat} (hd : d < s.cfg.nAcc) :
    exec (.new d) s = .next ((s.create d allOnes).complete .ok) := by
  refine exec_of_checks_ok (i := .new d) ?_
  rw [checksOf, State.noSlot_eq_false.2 hd, firstError_cons_false, firstError_nil]

theorem exec_newu_of_range {s : State} {d : Nat} {off len : Word} (hd : d < s.cfg.nAcc)
    (hin : off.toNat + len.toNat ≤ s.cfg.bufSize) :
    exec (.newu d off len) s = .next ((s.create d (s.fold allOnes off.toNat len.toNat)).complete .ok) := by
  refine exec_of_checks_ok (i := .newu d off len) ?_
  rw [checks_newu hd, State.rangeBad_eq_false.2 hin]
  rfl

theorem exec_update_of_range {s : State} {d : Nat} {off len : Word} (hd : d < s.cfg.nAcc)
    (hv : s.readValid d = true) (hin : off.toNat + len.toNat ≤ s.cfg.bufSize) :
    exec (.update d off len) s =
      .next ((s.writeAcc d (s.fold (s.readAcc d) off.toNat len.toNat)).complete .ok) := by
  refine exec_of_checks_ok (i := .update d off len) ?_
  rw [checks_update hd hv, State.rangeBad_eq_false.2 hin]
  rfl

/-- Settles O26: the two definitions are the same. -/
theorem newEqualsReset : Obligations.NewEqualsReset := fun _ _ => rfl

/-! One command after another. -/

theorem State.slot_lt_of_ok {s : State} {d : Nat} (hcfg : s.cfg.Ok) (hd : d < s.cfg.nAcc) : d < 16 :=
  Nat.lt_of_lt_of_le hd hcfg.2.1

/-- Of two writes of one register the second counts. -/
theorem State.writeAcc_complete_writeAcc (s : State) (d : Nat) (v w : Word) (e : ErrCode) :
    ((s.writeAcc d v).complete e).writeAcc d w = (s.writeAcc d w).complete e := by
  simp [State.writeAcc, State.complete]

theorem State.create_complete_writeAcc (s : State) (d : Nat) (v w : Word) (e : ErrCode) :
    ((s.create d v).complete e).writeAcc d w = (s.create d w).complete e :=
  congrArg (·.markValid d) (s.writeAcc_complete_writeAcc d v w e)

/-- UPDATE of an accumulator that the command before it wrote goes on from the value written, over the same bytes. -/
theorem exec_update_after {i : Instr} {s u : State} {d : Nat} {v off len : Word} (h : exec i s = .next u)
    (hacc : u.readAcc d = v) (hd : d < s.cfg.nAcc) (hv : u.readValid d = true)
    (hin : off.toNat + len.toNat ≤ s.cfg.bufSize) :
    exec (.update d off len) u = .next ((u.writeAcc d (s.fold v off.toNat len.toNat)).complete .ok) := by
  obtain ⟨-, hbuf, htable, -, hcfg, -, -, -, -, hepoch⟩ := (completion_of_exec h).sameOutside
  rw [← hcfg] at hd hin
  rw [exec_update_of_range hd hv hin, hacc, State.fold_frame htable hbuf hepoch]

/-- Settles O16: the fold by induction on the first length; the second UPDATE goes on from what the first one wrote. -/
theorem chunkInvariance : Obligations.ChunkInvariance := by
  refine ⟨fun s r off l1 l2 _ => s.fold_fold r off l1 l2, ?_⟩
  intro s d off l1 off2 l2 len hcfg hd hv hoff hlen hin
  have hacc := s.readAcc_writeAcc_same (State.slot_lt_of_ok hcfg hd) (s.fold (s.readAcc d) off.toNat l1.toNat)
  have hfirst := exec_update_of_range (off := off) (len := l1) hd hv (by omega)
  refine ⟨_, _, hfirst, exec_update_after hfirst hacc hd hv (by omega), ?_⟩
  rw [exec_update_of_range hd hv hin, State.writeAcc_complete_writeAcc, hoff, State.fold_fold, hlen]
  rfl

/-- Settles O27: UPDATE goes on from the seed that NEW wrote. -/
theorem newuIsNewThenUpdate : Obligations.NewuIsNewThenUpdate := by
  intro s d off len hcfg hd hin
  have h16 := State.slot_lt_of_ok hcfg hd
  have hnew := exec_new_of_slot hd
  refine ⟨_, _, hnew, exec_update_after hnew (s.readAcc_create_same h16 allOnes) hd
    (s.readValid_create_same h16 allOnes) hin, ?_⟩
  rw [exec_newu_of_range hd hin, State.create_complete_writeAcc]
  rfl

/-- Settles O19: GETVAL reads the register that NEWU wrote, the fold of the range from the seed with `gen`'s table; the
vectors by evaluation. -/
theorem crcOfRange : Obligations.CrcOfRange := by
  refine ⟨fun s d off len hi hready hd hin => ?_, by decide, by decide +kernel, by decide +kernel, by decide +kernel⟩
  have h16 := State.slot_lt_of_ok hi.params hd
  refine ⟨_, _, exec_newu_of_range hd hin, exec_getval_of_valid hd (s.readValid_create_same h16 _), ?_⟩
  change (s.create d (s.fold allOnes off.toNat len.toNat)).readAcc d ^^^ allOnes = _
  rw [s.readAcc_create_same h16, State.fold_of_built (hi.tableBuilt hready)]
  rfl

/-! The words of the commands other than COMBINE. -/

theorem slotField_of_lt {d : Nat} (hd : d < 16) : slotField d = BitVec.ofNat 32 d := by
  apply BitVec.eq_of_toNat_eq
  simp [slotField]
  omega

/-- The word written out in R83 to R98 is the encoder's. -/
theorem or_shiftLeft_eq_cmdWord (op : BitVec 4) {d : Nat} (hd : d < 16) :
    op.setWidth 32 ||| BitVec.ofNat 32 d <<< 8 = cmdWord op d 0 0 := by
  have hno : slotField 0 = 0#32 := by decide
  rw [cmdWord, hno, slotField_of_lt hd, BitVec.zero_shiftLeft, BitVec.zero_shiftLeft, BitVec.or_zero, BitVec.or_zero]

theorem decode_single {op : BitVec 4} {d : Nat} {x y : Word} {i : Instr} (hd : d < 16)
    (hrow : (op = 1 ∧ i = .new d) ∨ (op = 2 ∧ i = .newu d x y) ∨ (op = 3 ∧ i = .update d x y) ∨
      (op = 4 ∧ i = .reset d) ∨ (op = 5 ∧ i = .getval d)) :
    decode ⟨op.setWidth 32 ||| BitVec.ofNat 32 d <<< 8, x, y⟩ = .ok i := by
  rw [or_shiftLeft_eq_cmdWord op hd]
  refine decode_eq_ok_iff.2 ⟨fieldRes0_cmdWord op d 0 0, fieldRes1_cmdWord op d 0 0, .inr ⟨fieldAB_cmdWord op d, ?_⟩⟩
  rw [fieldOp_cmdWord, fieldD_cmdWord op 0 0 hd]
  exact hrow

/-- A legal word of such an opcode is the encoder's word, which its row accepts. -/
theorem badFieldsFail_single {op : BitVec 4} (h6 : op ≠ 6) (s : State) :
    BadFieldsFail s op 0xFFFFF0FF (cmdWord op 0 0 0) := by
  intro cw x y hop hne
  refine runCommand_of_not_legal (fun ⟨hres0, hres1, _, hab⟩ => hne ?_) s
  change fieldOp cw = op at hop
  rw [← cmdWord_of_single_fields hop hres0 (hab (hop ▸ h6)) hres1]
  exact cmdWord_and_single op (fieldD cw)

/-! The errors, and the frame of a command that completes. -/

/-- The first check of every instruction is that its slot d exists (R134). -/
theorem exists_checksOf_eq_cons (i : Instr) (s : State) :
    ∃ rest, checksOf i s = (s.noSlot (dest i), .errIndex) :: rest := by
  cases i <;> exact ⟨_, rfl⟩

theorem failsWith_index {i : Instr} {s : State} (h : s.cfg.nAcc ≤ dest i) : FailsWith s i 4 := by
  obtain ⟨rest, hchecks⟩ := exists_checksOf_eq_cons i s
  refine failsWith_of_checks (e := .errIndex) ?_ (by decide)
  rw [hchecks, State.noSlot_eq_true.2 h, firstError_cons_true]

/-- An instruction whose second check is VALID[d] fails with ERR_UNINIT on a slot that holds no accumulator. -/
theorem failsWith_uninit {i : Instr} {s : State} {d : Nat} {rest : List (Bool × ErrCode)}
    (hchecks : checksOf i s = (s.noSlot d, .errIndex) :: (s.uninit d, .errUninit) :: rest) (hd : d < s.cfg.nAcc)
    (hv : s.readValid d = false) : FailsWith s i 5 := by
  have huninit : s.uninit d = true := by rw [State.uninit, hv, Bool.not_false]
  refine failsWith_of_checks (e := .errUninit) ?_ (by decide)
  rw [hchecks, State.noSlot_eq_false.2 hd, huninit, firstError_cons_false, firstError_cons_true]

/-- What a successful command other than GETVAL leaves unchanged. -/
theorem frame_of_exec {i : Instr} {s u : State} (h : exec i s = .next (u.complete .ok)) (hg : i ≠ .getval (dest i)) :
    Completed (u.complete .ok) 0 ∧ (u.complete .ok).result = s.result ∧
      (∀ j, j ≠ dest i → SameSlot s (u.complete .ok) j) ∧ SameOutside s (u.complete .ok) := by
  have hc := completion_of_exec h
  exact ⟨⟨rfl, rfl⟩, by_contra fun hr => hg (hc.changes_result hr).1, fun j => hc.sameSlot_of_ne_dest, hc.sameOutside⟩

/-! The five commands. -/

/-- The effect and the frame of NEW, and so of RESET (`newEqualsReset`). -/
theorem exec_new_effect {s : State} {d : Nat} (h16 : d < 16) (hd : d < s.cfg.nAcc) :
    ∃ t, exec (.new d) s = .next t ∧ t.readAcc d = allOnes ∧ t.external d = 0 ∧ t.readValid d = true ∧
      Completed t 0 ∧ t.result = s.result ∧ (∀ j, j ≠ d → SameSlot s t j) ∧ SameOutside s t := by
  have hexec := exec_new_of_slot hd
  have hacc := s.readAcc_create_same h16 allOnes
  have hext : (s.create d allOnes).external d = 0 := (congrArg (· ^^^ allOnes) hacc).trans BitVec.xor_self
  exact ⟨_, hexec, hacc, hext, s.readValid_create_same h16 allOnes, frame_of_exec hexec (by simp)⟩

/-- Settles O20: the only check is that slot d exists; the body creates it at the seed. -/
theorem newCommand : Obligations.NewCommand := fun s d _ _ h16 =>
  ⟨decode_single (op := 1) h16 (.inl ⟨rfl, rfl⟩), badFieldsFail_single (op := 1) (by decide) s,
    failsWith_index (i := .new d), exec_new_effect h16⟩

/-- Settles O23: RESET answers what NEW answers. -/
theorem resetCommand : Obligations.ResetCommand := fun s d _ _ h16 =>
  ⟨decode_single (op := 4) h16 (.inr (.inr (.inr (.inl ⟨rfl, rfl⟩)))), badFieldsFail_single (op := 4) (by decide) s,
    failsWith_index (i := .reset d), fun hd => newEqualsReset s d ▸ exec_new_effect h16 hd⟩

/-- Settles O21: for a real slot the bounds check decides; the body creates the slot at the fold from the seed. -/
theorem newuCommand : Obligations.NewuCommand := by
  intro s d off len h16
  refine ⟨decode_single (op := 2) h16 (.inr (.inl ⟨rfl, rfl⟩)), badFieldsFail_single (op := 2) (by decide) s,
    failsWith_index (i := .newu d off len), fun hd hout => ?_, fun hd hin => ?_⟩
  · refine failsWith_of_checks (e := .errRange) ?_ (by decide)
    rw [checks_newu hd, if_pos (State.rangeBad_eq_true.2 hout)]
  · have hexec := exec_newu_of_range hd hin
    exact ⟨_, hexec, s.readAcc_create_same h16 _, s.readValid_create_same h16 _, frame_of_exec hexec (by simp)⟩

/-- Settles O22: for a valid slot the bounds check decides; the body writes the register alone, so VALID[d] stays. -/
theorem updateCommand : Obligations.UpdateCommand := by
  intro s d off len h16
  refine ⟨decode_single (op := 3) h16 (.inr (.inr (.inl ⟨rfl, rfl⟩))), badFieldsFail_single (op := 3) (by decide) s,
    failsWith_index (i := .update d off len), failsWith_uninit rfl, fun hd hv hout => ?_, fun hd hv hin => ?_⟩
  · refine failsWith_of_checks (e := .errRange) ?_ (by decide)
    rw [checks_update hd hv, if_pos (State.rangeBad_eq_true.2 hout)]
  · have hexec := exec_update_of_range hd hv hin
    exact ⟨_, hexec, s.readAcc_writeAcc_same h16 _, hv, frame_of_exec hexec (by simp)⟩

/-- Settles O24: GETVAL writes no slot at all. -/
theorem getvalCommand : Obligations.GetvalCommand := by
  intro s d x y h16
  refine ⟨decode_single (op := 5) h16 (.inr (.inr (.inr (.inr ⟨rfl, rfl⟩)))),
    badFieldsFail_single (op := 5) (by decide) s, failsWith_index (i := .getval d), failsWith_uninit rfl,
    fun hd hv => ?_⟩
  have hexec := exec_getval_of_valid hd hv
  have hc := completion_of_exec hexec
  exact ⟨_, hexec, rfl, ⟨rfl, rfl⟩, hc.sameSlot_of_getval rfl, hc.sameOutside⟩

end Sys2Proof.Machine

/-! PROOFS, 42_combine.md. The GF(2) matrices on vectors; the loop of R118 as a number of bit steps; COMBINE's word, its
checks and its effect, each said once; then the statements. -/

namespace Sys2Proof.Machine

open Sys2Proof.Laws

/-! Matrices on vectors (R108, R109). -/

/-- Settles O29: the law of S is `applyMatrix_matrixS`, and the bit of the vector 1 is shifted out. -/
theorem matrixAppliedToVector : Obligations.MatrixAppliedToVector := by
  refine ⟨fun M v i => getLsbD_applyMatrix M v i.isLt, applyMatrix_matrixS, ?_⟩
  rw [applyMatrix_matrixS]
  decide

/-- `xorSelected` adds up the rows that the mask selects, whatever is in the sum already. -/
theorem xor_xorSelected_ofFn {n : Nat} (j : Nat) (rows : Fin n → Word) (mask r : Word) :
    r ^^^ xorSelected j (List.ofFn rows) mask =
      ((List.finRange n).filter fun k => mask.getLsbD (j + k.val)).foldl (fun r k => r ^^^ rows k) r := by
  induction n generalizing j r with
  | zero => exact BitVec.xor_zero
  | succ n ih =>
    have hshift : ∀ k : Fin n, j + k.succ.val = j + 1 + k.val := fun k => by rw [Fin.val_succ]; omega
    have hrest := fun r => ih (j + 1) (fun k => rows k.succ) r
    rw [List.ofFn_succ, xorSelected, List.finRange_succ, List.filter_cons, List.filter_map]
    simp only [Function.comp_def, hshift, Fin.val_zero, Nat.add_zero]
    split
    · rw [List.foldl_cons, List.foldl_map, ← hrest, BitVec.xor_assoc]
    · rw [List.foldl_map, ← hrest]

/-- Settles O30: a vector lists its rows, and `applyMatrix_mulMatrix` has the order of composition. -/
theorem matrixProduct : Obligations.MatrixProduct := by
  intro A B v
  refine ⟨fun i => ?_, applyMatrix_mulMatrix A B v⟩
  have hrows : B.toList = List.ofFn fun k : Fin 64 => B[k] := by
    rw [← Vector.toList_ofFn]
    exact congrArg Vector.toList Vector.ofFn_getElem.symm
  have hsum := xor_xorSelected_ofFn 0 (fun k : Fin 64 => B[k]) A[i] 0
  rw [← hrows] at hsum
  simpa [mulMatrix_getElem] using hsum

/-! The powers of S and of Z as numbers of bit steps (R110, R113, R114). -/

/-- Squaring doubles the number of bit steps. -/
theorem applyMatrix_sqMatrix {M : Matrix64} {m : Nat} (h : ∀ v, applyMatrix M v = shiftBits m v) (v : Word) :
    applyMatrix (sqMatrix M) v = shiftBits (2 * m) v := by
  rw [sqMatrix, applyMatrix_mulMatrix, h, h, ← shiftBits_add, Nat.two_mul]

theorem applyMatrix_iterate_sqMatrix (k : Nat) (v : Word) :
    applyMatrix (sqMatrix^[k] matrixS) v = shiftBits (2 ^ k) v := by
  induction k generalizing v with
  | zero => exact applyMatrix_matrixS v
  | succ k ih => rw [Function.iterate_succ_apply', applyMatrix_sqMatrix ih, Nat.pow_succ, Nat.mul_comm]

/-- Settles O31: both orders of two powers of S are their sum of bit steps. -/
theorem squaringsOfS : Obligations.SquaringsOfS := by
  refine ⟨applyMatrix_iterate_sqMatrix, fun j k v => ?_⟩
  simp only [applyMatrix_powMatrix_matrixS]
  rw [← shiftBits_add, ← shiftBits_add, Nat.add_comm]

/-- Settles O32: Z is eight bit steps; its two rows by evaluation. -/
theorem zeroByteOperator : Obligations.ZeroByteOperator :=
  ⟨fun v => (applyMatrix_matrixZ v).trans (applyMatrix_powMatrix_matrixS 8 v).symm,
    fun r => (applyMatrix_matrixZ r).trans (shiftBits_eight r), by decide +kernel, by decide +kernel⟩

theorem shiftBits_eq_iterate (n : Nat) (v : Word) : shiftBits n v = shift1^[n] v := by
  induction n generalizing v with
  | zero => rfl
  | succ n ih => rw [shiftBits_succ, ih, Function.iterate_succ_apply]

/-- The bit step loses nothing: 64 steps from a vector give 0 only if no bit was set in it. -/
theorem shift1_injective : Function.Injective shift1 := by
  intro v w h
  have hzero : shiftBits 64 (v ^^^ w) = 0 := by
    rw [shiftBits_xor, shiftBits_succ, h, ← shiftBits_succ, BitVec.xor_self]
    rfl
  have hlow : ∀ i < 64, (v ^^^ w).getLsbD i = false :=
    low_zero_of_shiftBits_top_zero (Nat.le_refl 64) fun i _ _ => by rw [hzero]; exact BitVec.getLsbD_zero
  refine BitVec.xor_eq_zero_iff.1 (BitVec.eq_of_getLsbD_eq fun i hi => ?_)
  rw [hlow i hi, BitVec.getLsbD_zero]

/-- m bit steps permute the finitely many vectors, and a permutation of a finite set has a finite order. -/
theorem exists_shiftBits_mul_eq_self (m : Nat) : ∃ k, 0 < k ∧ ∀ v, shiftBits (m * k) v = v := by
  have hbij : Function.Bijective shift1^[m] := Finite.injective_iff_bijective.1 (shift1_injective.iterate m)
  obtain ⟨k, hk, hone⟩ := isOfFinOrder_iff_pow_eq_one.1 (isOfFinOrder_of_finite (Equiv.ofBijective _ hbij))
  refine ⟨k, hk, fun v => ?_⟩
  rw [shiftBits_eq_iterate, Function.iterate_mul]
  exact Equiv.congr_fun hone v

/-- Settles O33: the period is the order of eight bit steps as a permutation of the vectors. -/
theorem powersOfZ : Obligations.PowersOfZ := by
  obtain ⟨k, hk, hself⟩ := exists_shiftBits_mul_eq_self 8
  refine ⟨applyMatrix_matrixOne, fun n v => ?_, k, hk, fun n v => ?_⟩
  · rw [applyMatrix_powMatrix_matrixZ, applyMatrix_powMatrix_matrixS]
  · rw [applyMatrix_powMatrix_matrixZ, applyMatrix_powMatrix_matrixZ, Nat.mul_add, shiftBits_add, hself]

/-! The combined value (R118, R120, R124). -/

/-- The loop of R118, its matrix at m bit steps, makes m * n of them: its low bit now, its other bits with the matrix
squared. -/
theorem combineLoop_eq_shiftBits {k m n : Nat} {M : Matrix64} {v : Word} (hM : ∀ v, applyMatrix M v = shiftBits m v)
    (hn : n ≤ k) : combineLoop k M v n = shiftBits (m * n) v := by
  induction k generalizing m n M v with
  | zero => rw [Nat.le_zero.1 hn]; rfl
  | succ k ih =>
    rw [combineLoop]
    split
    case isTrue h0 => rw [h0]; rfl
    case isFalse h0 =>
      have hlow : (if n % 2 = 1 then applyMatrix M v else v) = shiftBits (m * (n % 2)) v := by
        rcases Nat.mod_two_eq_zero_or_one n with h | h
        · rw [h]; rfl
        · rw [h, if_pos rfl, hM, Nat.mul_one]
      rw [ih (applyMatrix_sqMatrix hM) (by omega), hlow, ← shiftBits_add, Nat.mul_comm 2 m, Nat.mul_assoc,
        ← Nat.mul_add, Nat.mod_add_div]

theorem zshift_eq_shiftBits (n : Nat) (r : Word) : zshift r n = shiftBits (8 * n) r := by
  induction n generalizing r with
  | zero => rfl
  | succ n ih => rw [zshift, ih, ← shiftBits_eight, Nat.mul_succ, Nat.add_comm, shiftBits_add]

theorem combineValue_zero (cA cB : Word) : combineValue cA cB 0 = cA := rfl

theorem combineValue_of_pos (cA cB : Word) {n : Nat} (hn : 0 < n) :
    combineValue cA cB n = applyMatrix (powMatrix matrixZ n) cA ^^^ cB := by
  rw [combineValue, if_neg (Nat.ne_of_gt hn), combineLoop_eq_shiftBits (m := 1) applyMatrix_matrixS (Nat.le_refl _),
    Nat.one_mul, Nat.mul_comm, applyMatrix_powMatrix_matrixZ]

/-- Settles O34: the loop, the power of Z and the zero-byte steps are 8 * lenB bit steps each. -/
theorem combineDefinitionsAgree : Obligations.CombineDefinitionsAgree := by
  intro cA cB lenB
  rcases Nat.eq_zero_or_pos lenB with rfl | hpos
  · exact ⟨rfl, fun h => absurd h (Nat.lt_irrefl 0)⟩
  · rw [combineValue_of_pos cA cB hpos, if_neg (Nat.ne_of_gt hpos), zshift_eq_shiftBits, applyMatrix_powMatrix_matrixZ]
    exact ⟨rfl, fun _ => rfl⟩

theorem crcFold_append (r : Word) (P Q : List Byte) : crcFold r (P ++ Q) = crcFold (crcFold r P) Q :=
  List.foldl_append

/-- Z^|Q| moves P's CRC, which is its fold's difference from the seed, over Q; Q's own fold from the seed cancels. -/
theorem combineValue_crcOf (P Q : List Byte) : combineValue (crcOf P) (crcOf Q) Q.length = crcOf (P ++ Q) := by
  rcases Nat.eq_zero_or_pos Q.length with h0 | hpos
  · rw [List.length_eq_zero_iff.1 h0, List.append_nil, List.length_nil, combineValue_zero]
  · calc combineValue (crcOf P) (crcOf Q) Q.length
      _ = crcFold (crcFold allOnes P) Q ^^^ crcFold allOnes Q ^^^ crcOf Q := by
        rw [combineValue_of_pos _ _ hpos, crcFold_xor_crcFold, crcOf]
      _ = crcFold (crcFold allOnes P) Q ^^^ allOnes := by
        rw [crcOf, BitVec.xor_assoc, ← BitVec.xor_assoc (crcFold allOnes Q), BitVec.xor_self, BitVec.zero_xor]
      _ = crcOf (P ++ Q) := by rw [crcOf, crcFold_append]

/-! The word of COMBINE. -/

/-- The word written out in R118 is the encoder's. -/
theorem or_shiftLeft_eq_cmdWord_combine (op : BitVec 4) {d a b : Nat} (hd : d < 16) (ha : a < 16) (hb : b < 16) :
    op.setWidth 32 ||| BitVec.ofNat 32 d <<< 8 ||| BitVec.ofNat 32 a <<< 12 ||| BitVec.ofNat 32 b <<< 16 =
      cmdWord op d a b := by
  rw [cmdWord, slotField_of_lt hd, slotField_of_lt ha, slotField_of_lt hb]

theorem decode_combine {d a b : Nat} (hd : d < 16) (ha : a < 16) (hb : b < 16) (x y : Word) :
    decode ⟨cmdWord 6 d a b, x, y⟩ = .ok (.combine d a b x) := by
  refine decode_eq_ok_iff.2
    ⟨fieldRes0_cmdWord 6 d a b, fieldRes1_cmdWord 6 d a b, .inl ⟨fieldOp_cmdWord 6 d a b, ?_⟩⟩
  rw [fieldD_cmdWord 6 a b hd, fieldA_cmdWord 6 d b ha, fieldB_cmdWord 6 d a hb]

/-- A legal word of COMBINE's opcode is the encoder's word, which its row accepts. -/
theorem badFieldsFail_combine (s : State) : BadFieldsFail s 6 0xFFF000FF (cmdWord 6 0 0 0) := by
  intro cw x y hop hne
  refine runCommand_of_not_legal (fun ⟨hres0, hres1, _, _⟩ => hne ?_) s
  rw [← cmdWord_of_fields hop hres0 hres1]
  exact cmdWord_and_combine 6 (fieldD cw) (fieldA cw) (fieldB cw)

/-! The checks and the effect of COMBINE. -/

/-- lenB is not negative exactly when its bit 63 is clear (R122). -/
theorem sint64_nonneg_iff {x : Word} : 0 ≤ sint64 x ↔ x.getLsbD 63 = false := by
  rw [← lengthBad_eq, lengthBad, decide_eq_false_iff_not, Int.not_lt]

theorem sint64_of_top_clear {x : Word} (h : x.getLsbD 63 = false) : sint64 x = x.toNat := by
  rw [sint64, h]
  rfl

theorem sint64_of_top_set {x : Word} (h : x.getLsbD 63 = true) : sint64 x = (x.toNat : Int) - 2 ^ 64 := by
  rw [sint64, if_pos h]

/-- The checks of COMBINE in R134's order, on the conditions themselves: its two checks of INDEX are one. -/
theorem checks_combine (s : State) (d a b : Nat) (lenB : Word) :
    firstError (checksOf (.combine d a b lenB) s) =
      if s.cfg.nAcc ≤ d ∨ s.cfg.nAcc ≤ a ∨ s.cfg.nAcc ≤ b then .errIndex
      else if s.readValid a = false ∨ s.readValid b = false then .errUninit
      else if d = a ∨ d = b then .errAlias
      else if sint64 lenB < 0 then .errLength
      else .ok := by
  by_cases hd : s.cfg.nAcc ≤ d <;> simp [checksOf, firstError, State.noSlot, State.uninit, lengthBad, hd]

section Combine

variable {s : State} {d a b : Nat} {lenB : Word}

theorem failsWith_combine_index (h : s.cfg.nAcc ≤ d ∨ s.cfg.nAcc ≤ a ∨ s.cfg.nAcc ≤ b) :
    FailsWith s (.combine d a b lenB) 4 :=
  failsWith_of_checks (e := .errIndex) (by rw [checks_combine, if_pos h]) (by decide)

variable (hd : d < s.cfg.nAcc) (ha : a < s.cfg.nAcc) (hb : b < s.cfg.nAcc)

include hd ha hb

theorem failsWith_combine_uninit (h : s.readValid a = false ∨ s.readValid b = false) :
    FailsWith s (.combine d a b lenB) 5 :=
  failsWith_of_checks (e := .errUninit) (by rw [checks_combine, if_neg (by omega), if_pos h]) (by decide)

variable (hva : s.readValid a = true) (hvb : s.readValid b = true)

include hva hvb

/-- For real slots a and b that hold accumulators the checks of ALIAS and LENGTH decide. -/
theorem checks_combine_of_valid :
    firstError (checksOf (.combine d a b lenB) s) =
      if d = a ∨ d = b then .errAlias else if sint64 lenB < 0 then .errLength else .ok := by
  rw [checks_combine, if_neg (by omega), if_neg (by simp [hva, hvb])]

theorem failsWith_combine_alias (h : d = a ∨ d = b) : FailsWith s (.combine d a b lenB) 6 :=
  failsWith_of_checks (e := .errAlias) (by rw [checks_combine_of_valid hd ha hb hva hvb, if_pos h]) (by decide)

variable (hda : d ≠ a) (hdb : d ≠ b)

include hda hdb

theorem failsWith_combine_length (h : sint64 lenB < 0) : FailsWith s (.combine d a b lenB) 2 :=
  failsWith_of_checks (e := .errLength)
    (by rw [checks_combine_of_valid hd ha hb hva hvb, if_neg (not_or.2 ⟨hda, hdb⟩), if_pos h]) (by decide)

/-- The effect and the frame of COMBINE where its checks pass: the register takes the internal form of the combined
value. -/
theorem exec_combine_effect (h16 : d < 16) (h : 0 ≤ sint64 lenB) :
    ∃ t, exec (.combine d a b lenB) s = .next t ∧
      t.external d = combineValue (s.external a) (s.external b) (sint64 lenB).toNat ∧ t.readValid d = true ∧
      Completed t 0 ∧ t.result = s.result ∧ (∀ j, j ≠ d → SameSlot s t j) ∧ SameOutside s t := by
  have hexec := exec_of_checks_ok (i := .combine d a b lenB) (s := s)
    (by rw [checks_combine_of_valid hd ha hb hva hvb, if_neg (not_or.2 ⟨hda, hdb⟩), if_neg (Int.not_lt.2 h)])
  refine ⟨_, hexec, ?_, s.readValid_create_same h16 _, frame_of_exec hexec (by simp)⟩
  refine (congrArg (· ^^^ allOnes) (s.readAcc_create_same h16 _)).trans ?_
  rw [BitVec.xor_assoc, BitVec.xor_self, BitVec.xor_zero]

/-- The value of COMBINE where its checks pass, lenB being the raw word. -/
theorem exec_combine_value (hcfg : s.cfg.Ok) (h : lenB.getLsbD 63 = false) :
    ∃ t, exec (.combine d a b lenB) s = .next t ∧ t.err = 0 ∧
      t.external d = combineValue (s.external a) (s.external b) lenB.toNat := by
  obtain ⟨t, hexec, hval, -, ⟨herr, -⟩, -⟩ := exec_combine_effect hd ha hb hva hvb hda hdb
    (State.slot_lt_of_ok hcfg hd) (sint64_nonneg_iff.2 h)
  rw [sint64_of_top_clear h, Int.toNat_natCast] at hval
  exact ⟨t, hexec, herr, hval⟩

end Combine

/-! COMBINE. -/

/-- Settles O25: each error is the first check that fails, and the body creates slot d at the combined value. -/
theorem combineCommand : Obligations.CombineCommand := by
  intro s d a b lenB y hd16 ha16 hb16
  refine ⟨?_, badFieldsFail_combine s, failsWith_combine_index, fun hd ha hb =>
    ⟨failsWith_combine_uninit hd ha hb, fun hva hvb => ⟨failsWith_combine_alias hd ha hb hva hvb,
      failsWith_combine_length hd ha hb hva hvb, fun hda hdb =>
        exec_combine_effect hd ha hb hva hvb hda hdb hd16⟩⟩⟩
  exact (congrArg (fun w => decode ⟨w, lenB, y⟩) (or_shiftLeft_eq_cmdWord_combine 6 hd16 ha16 hb16)).trans
    (decode_combine hd16 ha16 hb16 lenB y)

/-- Settles O35: COMBINE gives the combined value of what slots a and b hold. -/
theorem combineIsConcatenation : Obligations.CombineIsConcatenation := by
  refine ⟨combineValue_crcOf, ?_⟩
  intro s P Q d a b lenB hcfg hd ha hb hva hvb hda hdb htop hlen hP hQ
  obtain ⟨t, hexec, -, hval⟩ := exec_combine_value hd ha hb hva hvb hda hdb hcfg htop
  rw [hP, hQ, hlen, combineValue_crcOf] at hval
  exact ⟨t, hexec, hval⟩

/-- Settles O36: the checks on b do not look at lenB, and the combined value for lenB = 0 is cA. -/
theorem combineZeroLength : Obligations.CombineZeroLength := by
  intro s d a b hcfg hd ha hva hda
  refine ⟨fun hb => failsWith_combine_index (.inr (.inr hb)),
    fun hb hvb => failsWith_combine_uninit hd ha hb (.inr hvb),
    fun hb hvb hdb => failsWith_combine_alias hd ha hb hva hvb (.inr hdb), fun hb hvb hdb => ?_⟩
  obtain ⟨t, hexec, -, hval⟩ := exec_combine_value (lenB := 0) hd ha hb hva hvb hda hdb hcfg (by decide)
  exact ⟨t, hexec, hval⟩

/-- Settles O37: bit 63 of X is the sign, and the loop of R118 is exact for every length. -/
theorem combineLengths : Obligations.CombineLengths := by
  intro s d a b x hcfg hd ha hb hva hvb hda hdb
  refine ⟨fun htop => ?_, fun htop => ?_⟩
  · have hneg : sint64 x < 0 := by
      rw [← Int.not_le, sint64_nonneg_iff, htop]
      decide
    exact ⟨sint64_of_top_set htop, hneg, failsWith_combine_length hd ha hb hva hvb hda hdb hneg⟩
  · obtain ⟨t, hexec, herr, hval⟩ := exec_combine_value hd ha hb hva hvb hda hdb hcfg htop
    refine ⟨t, hexec, herr, ?_⟩
    split
    case isTrue h0 => rw [hval, h0]; rfl
    case isFalse h0 =>
      have hpos : 0 < x.toNat := Nat.pos_of_ne_zero fun h => h0 (BitVec.eq_of_toNat_eq h)
      rw [hval, combineValue_of_pos _ _ hpos]

end Sys2Proof.Machine

/-! PROOFS, 60_exceptions.md. A command by its first failing check, and the code it reports; the engine's step; and why
no step stops CORE while the host writes to addresses of BUF only. -/

namespace Sys2Proof.Machine

/-! A command by its first failing check (R126, R134). -/

theorem runCommand_of_check_fails {c : Command} {s : State} (h : checkCode c s ≠ .ok) :
    runCommand c s = .next (s.raise (checkCode c s)) := by
  cases hd : decode c with
  | error why => rw [runCommand_of_error hd, checkCode_of_error hd]
  | ok i =>
    rw [checkCode_of_ok hd] at h ⊢
    rw [runCommand_of_ok hd, exec_eq_perform, State.perform_fail s h]

theorem exists_decode_of_check_ok {c : Command} {s : State} (h : checkCode c s = .ok) :
    ∃ i, decode c = .ok i ∧ exec i s = .next ((bodyOf i s).complete .ok) := by
  cases hd : decode c with
  | error why => exact absurd ((checkCode_of_error hd s).symm.trans h) (by decide)
  | ok i => exact ⟨i, rfl, exec_of_checks_ok ((checkCode_of_ok hd s).symm.trans h)⟩

/-- Settles O38: a command that passes its checks decodes and completes its body, and another raises the code of its
first failing check. -/
theorem checkOrder : Obligations.CheckOrder := by
  refine fun c s => ⟨runCommand_of_check_fails, fun h => ?_⟩
  obtain ⟨i, hd, hexec⟩ := exists_decode_of_check_ok h
  exact ⟨i, _, hd, hexec, (runCommand_of_ok hd s).trans hexec, rfl, rfl⟩

/-- Settles O40: a command that completes with ERR other than 0 failed a check, and raising its code leaves BUSY = 0 and
TABLE_READY as it was. -/
theorem errorsChangeNothingElse : Obligations.ErrorsChangeNothingElse := by
  intro c s t h herr
  obtain ⟨t', h', hcode, -⟩ := runCommand_completed c s
  cases h.symm.trans h'
  have hfail : checkCode c s ≠ .ok := fun hok => herr (by rw [hcode, hok]; rfl)
  cases h.symm.trans (runCommand_of_check_fails hfail)
  exact ⟨rfl, fun hready => State.portOpen_eq_true.2 ⟨rfl, hready⟩⟩

/-! The codes of an instruction (R133). -/

/-- The first error is OK or the code of one of the checks. -/
theorem firstError_mem (checks : List (Bool × ErrCode)) : firstError checks ∈ .ok :: checks.map Prod.snd := by
  induction checks with
  | nil => exact List.mem_cons_self
  | cons check rest ih =>
    obtain ⟨bad, e⟩ := check
    cases bad with
    | true => simp [firstError_cons_true]
    | false =>
      rw [firstError_cons_false]
      exact List.cons_subset_cons _ (List.subset_cons_self e _) ih

theorem err_of_exec {i : Instr} {s t : State} (h : exec i s = .next t) : t.err = (firstError (checksOf i s)).code := by
  obtain ⟨t', h', herr, -⟩ := s.perform_completed (firstError (checksOf i s)) (bodyOf i)
  rw [← exec_eq_perform, h] at h'
  cases h'
  exact herr

/-- The code an instruction completes with is 0 or that of one of its checks. -/
theorem err_mem_of_exec {i : Instr} {s t : State} (h : exec i s = .next t) :
    t.err.toNat ∈ (.ok :: (checksOf i s).map Prod.snd).map fun e : ErrCode => e.code.toNat := by
  rw [err_of_exec h]
  exact List.mem_map_of_mem (firstError_mem _)

/-- Settles O41: the codes of each instruction are those of its checks; COMBINE checks an index twice. -/
theorem codesByCommand : Obligations.CodesByCommand := by
  intro i s t h
  have hmem := err_mem_of_exec h
  cases i with
  | new | newu | update | reset | getval => exact hmem
  | combine d a b lenB =>
    have hcodes : t.err.toNat ∈ [0, 4, 4, 5, 6, 2] := hmem
    simpa using hcodes

/-! The engine's step (R28). -/

theorem step_of_engine {s : State} {c : Command} (ha : s.agent = .engine) (hc : s.inFlight = some c) :
    step s = runCommand c s.popTurn := by
  simp [step, ha, State.takeTurn, State.engineTurn, hc]

/-- Settles O55: the engine's step runs the command in flight, which is its instruction's `exec`. -/
theorem stepRunsDecoded : Obligations.StepRunsDecoded := fun s _ _ ha hc hd =>
  (step_of_engine ha hc).trans (runCommand_of_ok hd s.popTurn)

/-! The moves still to be made (R150), which every turn of an agent keeps among those there were. -/

/-- A state keeps `MovesExist` if its coming moves are among the old ones and the port holds the old move or one of
them. -/
theorem State.MovesExist.of_remaining {s u : State} (hs : s.MovesExist) (hcfg : u.cfg = s.cfg)
    (hmoves : ∀ m, .move m ∈ u.moves → .move m ∈ s.moves)
    (hheld : ∀ m, u.held = some m → s.held = some m ∨ .move m ∈ s.moves) : u.MovesExist := by
  intro addr v hw
  rw [hcfg]
  rcases hw with hw | hw
  · exact hs addr v (.inl (hmoves _ hw))
  · exact hs addr v (hheld _ hw).symm

/-- A command leaves the host's side and the parameters alone. -/
theorem State.MovesExist.runCommand {s t : State} {c : Command} (hs : s.MovesExist) (h : runCommand c s = .next t) :
    t.MovesExist := by
  obtain ⟨-, -, -, -, hcfg, hheld, hmoves, -⟩ := sameOutside_of_runCommand h
  exact hs.of_remaining hcfg (fun _ hm => hmoves ▸ hm) fun _ hm => .inl (hheld ▸ hm)

/-- The line the host has used is no longer among its coming ones. -/
theorem State.MovesExist.useLine {s : State} {act : HostAct} {rest : List HostAct} (hs : s.MovesExist)
    (hm : s.moves = act :: rest) : ({ s with moves := rest } : State).MovesExist :=
  hs.of_remaining rfl (fun _ h => hm ▸ List.mem_cons_of_mem act h) fun _ h => .inl h

/-- A move takes effect and leaves the moves still to be made alone, unless it is a BUF write outside BUF. -/
theorem exists_next_of_takeMove {u : State} {m : HostMove} (hu : u.MovesExist)
    (hw : ∀ addr v, m = .writeBuf addr v → addr < u.cfg.bufSize) : ∃ t, u.takeMove m = .next t ∧ t.MovesExist := by
  cases m with
  | hardReset => exact ⟨_, rfl, hu⟩
  | writeBuf addr v => exact ⟨_, if_pos (hw addr v rfl), hu⟩
  | issue c => exact ⟨_, rfl, hu⟩
  | read r => exact ⟨_, rfl, hu⟩

theorem State.MovesExist.engineTurn {s : State} (hs : s.MovesExist) : ∃ t, s.engineTurn = .next t ∧ t.MovesExist := by
  unfold State.engineTurn
  split
  · rename_i c hc
    obtain ⟨t, h, -⟩ := runCommand_completed c s
    exact ⟨t, h, hs.runCommand h⟩
  · exact ⟨s, rfl, hs⟩

theorem State.MovesExist.portTurn {s : State} (hs : s.MovesExist) :
    ∃ t, moveTurn s.portNext = .next t ∧ t.MovesExist := by
  rcases s.portNext_cases with h | ⟨m, hm, -, h⟩ <;> rw [h]
  · exact ⟨s, rfl, hs⟩
  · refine exists_next_of_takeMove (hs.of_remaining rfl (fun _ h => h) (by simp)) fun addr v hw => ?_
    exact hs addr v (.inr (hw ▸ hm))

theorem State.MovesExist.hostTurn {s : State} (hs : s.MovesExist) :
    ∃ t, moveTurn s.hostNext = .next t ∧ t.MovesExist := by
  rcases s.hostNext_cases with h | ⟨rest, hm, -, h⟩ | ⟨m, rest, -, hm, -, h⟩ | ⟨m, rest, hm, -, -, h⟩ <;> rw [h]
  · exact ⟨s, rfl, hs⟩
  · exact ⟨_, rfl, hs.useLine hm⟩
  · refine ⟨_, rfl, hs.of_remaining rfl (fun _ h => hm ▸ List.mem_cons_of_mem _ h) fun m' hheld => .inr ?_⟩
    cases hheld
    exact hm ▸ List.mem_cons_self
  · refine exists_next_of_takeMove (hs.useLine hm) fun addr v hw => hs addr v (.inl ?_)
    exact hw ▸ hm ▸ List.mem_cons_self

theorem State.MovesExist.takeTurn {s : State} (hs : s.MovesExist) (a : Agent) :
    ∃ t, s.takeTurn a = .next t ∧ t.MovesExist := by
  cases a with
  | generator => exact ⟨_, rfl, hs.of_remaining (by simp) (by simp) (by simp +contextual)⟩
  | engine => exact hs.engineTurn
  | port => exact hs.portTurn
  | host => exact hs.hostTurn

/-- Settles O58: every agent's turn answers a next state, and none adds a BUF write to those still to be made. -/
theorem machineNeverStops : Obligations.MachineNeverStops := fun s hs =>
  State.MovesExist.takeTurn (s := s.popTurn) hs s.agent

end Sys2Proof.Machine

/-! PROOFS, 70_reset_and_hazards.md. What the host's turn and the port's leave alone, the default schedule, and what a
move that takes effect does to BUF and to the port; then the statements. -/

namespace Sys2Proof.Machine

/-! The turns of the host and the port. -/

/-- The host's turn changes the host's side alone, and a move that is held stays. -/
theorem State.hostNext_snd (s : State) : ∃ h ms, s.hostNext.2 = { s with held := h, moves := ms } ∧
    ∀ m, s.held = some m → h = some m := by
  rcases s.hostNext_cases with h | ⟨rest, -, -, h⟩ | ⟨m, rest, hfree, -, -, h⟩ | ⟨m, rest, -, -, -, h⟩ <;> rw [h]
  · exact ⟨s.held, s.moves, rfl, fun _ hm => hm⟩
  · exact ⟨s.held, rest, rfl, fun _ hm => hm⟩
  · exact ⟨some m, rest, rfl, fun m' hm => by rw [hfree] at hm; cases hm⟩
  · exact ⟨s.held, rest, rfl, fun _ hm => hm⟩

/-- The port's turn changes nothing but what it holds. -/
theorem State.portNext_snd (s : State) : ∃ h, s.portNext.2 = { s with held := h } := by
  rcases s.portNext_cases with h | ⟨m, -, -, h⟩ <;> rw [h]
  · exact ⟨s.held, rfl⟩
  · exact ⟨none, rfl⟩

theorem moveTurn_cases (p : Option HostMove × State) :
    moveTurn p = .next p.2 ∨ ∃ m, p.1 = some m ∧ moveTurn p = p.2.takeMove m := by
  obtain ⟨m, u⟩ := p
  cases m with
  | none => exact .inl rfl
  | some m => exact .inr ⟨m, rfl, rfl⟩

theorem State.enabled_writeBuf {s : State} (h : s.busy = false) (addr : Nat) (v : Byte) :
    s.enabled (.writeBuf addr v) = true := by simp [State.enabled, h]

theorem State.not_enabled_of_busy {s : State} {m : HostMove} (h : s.busy = true) (hm : m.holdable = true) :
    s.enabled m = false := by
  cases m with
  | hardReset | read => cases hm
  | writeBuf | issue => simp [State.enabled, State.portOpen, h]

/-- With no command in flight and the table ready every move is enabled (R150). -/
theorem State.enabled_of_portOpen {s : State} (h : s.portOpen = true) (m : HostMove) : s.enabled m = true := by
  cases m with
  | hardReset | read => rfl
  | writeBuf addr v => exact State.enabled_writeBuf (State.portOpen_eq_true.1 h).1 addr v
  | issue => exact h

/-! What a move's effect leaves alone, and when it has none. -/

theorem State.takeMove_keeps_hostSide {s t : State} {m : HostMove} (h : s.takeMove m = .next t) :
    t.held = s.held ∧ t.moves = s.moves ∧ t.turns = s.turns := by
  rcases State.takeMove_cases h with ⟨-, rfl⟩ | ⟨a, v, -, -, rfl⟩ | ⟨c, -, rfl⟩ | ⟨r, -, rfl⟩ <;> exact ⟨rfl, rfl, rfl⟩

theorem State.takeMove_buf {s t : State} {m : HostMove} (h : s.takeMove m = .next t) :
    t.buf = s.buf ∨ (∃ a v, m = .writeBuf a v ∧ a < s.cfg.bufSize ∧ t.buf = s.buf.store a v) ∨
    (m = .hardReset ∧ t.buf = []) := by
  rcases State.takeMove_cases h with ⟨hm, rfl⟩ | ⟨a, v, hm, ha, rfl⟩ | ⟨c, -, rfl⟩ | ⟨r, -, rfl⟩
  · exact .inr (.inr ⟨hm, rfl⟩)
  · exact .inr (.inl ⟨a, v, hm, ha, rfl⟩)
  · exact .inl rfl
  · exact .inl rfl

/-- A move takes effect, but for a BUF write outside BUF, which is the fault. -/
theorem State.takeMove_next_or_fault (s : State) (m : HostMove) : (∃ t, s.takeMove m = .next t) ∨
    ∃ addr v, m = .writeBuf addr v ∧ s.cfg.bufSize ≤ addr ∧ s.takeMove m = .fault (.bufAddress addr) := by
  cases m with
  | hardReset | issue | read => exact .inl ⟨_, rfl⟩
  | writeBuf addr v =>
    by_cases ha : addr < s.cfg.bufSize
    · exact .inl ⟨_, if_pos ha⟩
    · exact .inr ⟨addr, v, rfl, Nat.le_of_not_lt ha, if_neg ha⟩

theorem State.bufRead_bufWrite_same (s : State) (addr : Nat) (v : Byte) : (s.bufWrite addr v).bufRead addr = v := by
  simp [State.bufRead, Memory.lookup_store_same]

theorem State.bufRead_bufWrite_other (s : State) {addr b : Nat} (h : b ≠ addr) (v : Byte) :
    (s.bufWrite addr v).bufRead b = s.bufRead b := by
  simp [State.bufRead, Memory.lookup_store_other s.buf v h]

/-! The default schedule (log entry 8). -/

theorem State.popTurn_of_no_turns {s : State} (h : s.turns = []) : s.popTurn = s := by
  rw [State.popTurn, h, List.tail_nil, ← h]

theorem State.agent_of_no_turns {s : State} (h : s.turns = []) :
    s.agent = if !s.tableReady then .generator else if s.busy then .engine
      else if s.held.isSome then .port else .host := by
  simp only [State.agent, h]

/-- With no turns named and the table ready, a command in flight completes next. -/
theorem step_completes_of_no_turns {s : State} {c : Command} (hturns : s.turns = []) (hready : s.tableReady = true)
    (hc : s.inFlight = some c) : step s = runCommand c s := by
  have hagent : s.agent = .engine := by simp [State.agent_of_no_turns hturns, hready, State.busy, hc]
  rw [step_of_engine hagent hc, State.popTurn_of_no_turns hturns]

/-! Hardware reset (R146, R159). -/

theorem State.statusWord_hardReset (s : State) : s.hardReset.statusWord = 0 :=
  (rfl : State.reset.statusWord = 0)

/-- Settles O9: reset is always enabled and never kept back, and its effect writes each value. -/
theorem hardwareResetAtAnyTime : Obligations.HardwareResetAtAnyTime := by
  intro s ts rest hturns hmoves
  have hstep : step s = .next ({ s with turns := ts, moves := rest } : State).hardReset :=
    step_of_host_turn hturns (State.hostNext_take hmoves rfl (State.keptBack_of_not_holdable _ rfl))
  exact ⟨_, hstep, rfl, State.readValid_hardReset _, rfl, rfl, rfl, State.statusWord_hardReset _, rfl, fun _ => rfl, rfl,
    rfl, rfl, rfl⟩

/-! A command does not read that it is in flight. -/

theorem checksOf_setInFlight (i : Instr) (s : State) (o : Option Command) :
    checksOf i { s with inFlight := o } = checksOf i s := by
  cases i <;> rfl

/-- The completion of a body overwrites the command in flight. -/
theorem bodyOf_setInFlight_complete (i : Instr) (s : State) (o : Option Command) (e : ErrCode) :
    (bodyOf i { s with inFlight := o }).complete e = (bodyOf i s).complete e := by
  have hfold (r : Word) (off len : Nat) : ({ s with inFlight := o } : State).fold r off len = s.fold r off len :=
    State.fold_frame (s := s) (t := { s with inFlight := o }) rfl rfl rfl r off len
  cases i with
  | new | reset | getval | combine => rfl
  | newu | update =>
    simp only [bodyOf, hfold]
    rfl

theorem runCommand_setInFlight (c : Command) (s : State) (o : Option Command) :
    runCommand c { s with inFlight := o } = runCommand c s := by
  cases hd : decode c with
  | error why =>
    rw [runCommand_of_error hd, runCommand_of_error hd]
    rfl
  | ok i =>
    rw [runCommand_of_ok hd, runCommand_of_ok hd, exec_eq_perform, exec_eq_perform, checksOf_setInFlight,
      State.perform, State.perform, bodyOf_setInFlight_complete]
    rfl

/-- Settles O49: the host's turn accepts the command, and the engine's turn completes it as on the state before. -/
theorem acceptThenComplete : Obligations.AcceptThenComplete := by
  intro s c rest hturns hheld hmoves hbusy hready
  have hhost : s.agent = .host := by simp [State.agent_of_no_turns hturns, hready, hbusy, hheld]
  have haccept : step s = .next { s with moves := rest, inFlight := some c } := by
    rw [step, hhost, State.popTurn_of_no_turns hturns, State.takeTurn,
      State.hostNext_take hmoves (State.portOpen_eq_true.2 ⟨hbusy, hready⟩) (State.keptBack_free hheld _)]
    rfl
  have hcomplete : step { s with moves := rest, inFlight := some c } = runCommand c { s with moves := rest } :=
    (step_completes_of_no_turns (s := { s with moves := rest, inFlight := some c }) hturns hready rfl).trans
      (runCommand_setInFlight c { s with moves := rest } (some c))
  obtain ⟨t, ht, -, hidle⟩ := runCommand_completed c { s with moves := rest }
  exact ⟨_, t, haccept, rfl, hcomplete.trans ht, ht, hidle⟩

/-! The port, BUF and the schedule over a step. -/

/-- A held move stays over a step, unless it takes effect. -/
theorem held_of_step {s t : State} {h : HostMove} (hh : s.held = some h) (hs : step s = .next t) :
    t.held = some h ∨ (s.enabled h = true ∧ s.HostTakes h ∧ t.held = none) := by
  rcases step_cases hs with ⟨-, rfl⟩ | ⟨-, -, rfl⟩ | ⟨-, c, -, hr⟩ | ⟨-, hn⟩ | ⟨-, rfl⟩ | ⟨m, u, ht, he, hm, hu⟩
  · exact .inl (s.popTurn.generatorStep_held.trans hh)
  · exact .inl hh
  · obtain ⟨-, -, -, -, -, hheld, -⟩ := sameOutside_of_runCommand hr
    exact .inl (hheld.trans hh)
  · obtain ⟨h', ms, hsnd, hkeep⟩ := s.popTurn.hostNext_snd
    rw [hn] at hsnd
    exact .inl ((congrArg State.held hsnd).trans (hkeep h hh))
  · exact .inl hh
  · obtain ⟨hheld, -⟩ := State.takeMove_keeps_hostSide hm
    rcases hu with ⟨rest, -, -, rfl⟩ | ⟨hm', rfl⟩
    · exact .inl (hheld.trans hh)
    · cases hh.symm.trans hm'
      exact .inr ⟨he, ht, hheld⟩

/-- Settles O50: what a step does with a held move; and the host waits with a move that is kept back or not enabled. -/
theorem heldMoveNeverLost : Obligations.HeldMoveNeverLost := by
  refine ⟨fun s t h hh hs => held_of_step hh hs, fun s ts h m rest hturns hheld hmoves hm hwhy => ?_⟩
  refine step_of_host_turn hturns (State.hostNext_keep hmoves hheld ?_)
  rcases hwhy with ⟨c, rfl⟩ | hbusy | ⟨addr, v, rfl⟩
  · exact .inr (by simp [State.keptBack, hheld, HostMove.holdable])
  · exact .inl (State.not_enabled_of_busy hbusy hm)
  · exact .inr (by simp [State.keptBack, hheld, hm])

/-- BUF stays over a step, unless the host's BUF write or hardware reset takes effect. -/
theorem buf_of_step {s t : State} (hs : step s = .next t) : t.buf = s.buf ∨
    (∃ addr v, s.HostTakes (.writeBuf addr v) ∧ addr < s.cfg.bufSize ∧ t.buf = s.buf.store addr v) ∨
    (s.HostTakes .hardReset ∧ t.buf = []) := by
  rcases step_cases hs with ⟨-, rfl⟩ | ⟨-, -, rfl⟩ | ⟨-, c, -, hr⟩ | ⟨-, hn⟩ | ⟨-, rfl⟩ | ⟨m, u, ht, -, hm, hu⟩
  · exact .inl s.popTurn.generatorStep_buf
  · exact .inl rfl
  · obtain ⟨-, hbuf, -⟩ := sameOutside_of_runCommand hr
    exact .inl hbuf
  · obtain ⟨-, -, hbuf, -⟩ := (hostSide_of_hostNext_none hn).sameRegisters
    exact .inl hbuf
  · exact .inl rfl
  · have hu' : u.buf = s.buf ∧ u.cfg = s.cfg := by
      rcases hu with ⟨rest, -, -, rfl⟩ | ⟨-, rfl⟩ <;> exact ⟨rfl, rfl⟩
    obtain ⟨hbuf, hcfg⟩ := hu'
    rw [← hbuf, ← hcfg]
    rcases State.takeMove_buf hm with h | ⟨addr, v, rfl, ha, h⟩ | ⟨rfl, h⟩
    · exact .inl h
    · exact .inr (.inl ⟨addr, v, ht, ha, h⟩)
    · exact .inr (.inr ⟨ht, h⟩)

/-- Settles O51: a BUF write with BUSY = 0 is enabled and a held command does not keep it back; and what a step does to
BUF. -/
theorem hostWritesBuf : Obligations.HostWritesBuf := by
  refine ⟨fun s ts addr v rest hturns hheld hmoves hbusy ha => ?_, fun s t hs hne => (buf_of_step hs).resolve_left hne⟩
  have hfree : ({ s with turns := ts } : State).keptBack (.writeBuf addr v) = false := by
    rcases hheld with hheld | ⟨c, hheld⟩ <;> simp [State.keptBack, hheld]
  have hstep : step s = .next (({ s with turns := ts, moves := rest } : State).bufWrite addr v) :=
    (step_of_host_turn hturns (State.hostNext_take hmoves (State.enabled_writeBuf hbusy addr v) hfree)).trans (if_pos ha)
  exact ⟨_, hstep, State.bufRead_bufWrite_same _ addr v, fun b hb => State.bufRead_bufWrite_other _ hb v, rfl, rfl, rfl,
    rfl, rfl, rfl, rfl, rfl, rfl, rfl⟩

/-- Settles O52: a BUF write is enabled exactly while BUSY = 0. -/
theorem bufWriteHeldWhileBusy : Obligations.BufWriteHeldWhileBusy := by
  refine fun s ts addr v => ⟨fun rest hturns hbusy hheld hmoves => ?_,
    fun hturns hheld => ⟨fun hbusy => ?_, fun hbusy ha => ?_⟩⟩
  · exact step_of_host_turn hturns (State.hostNext_hold hmoves (State.not_enabled_of_busy hbusy rfl) hheld)
  · exact step_of_port_turn hturns (State.portNext_stay hheld (State.not_enabled_of_busy hbusy rfl))
  · have hstep : step s = .next (({ s with turns := ts, held := none } : State).bufWrite addr v) :=
      (step_of_port_turn hturns (State.portNext_take hheld (State.enabled_writeBuf hbusy addr v))).trans (if_pos ha)
    exact ⟨_, hstep, State.bufRead_bufWrite_same _ addr v, fun b hb => State.bufRead_bufWrite_other _ hb v, rfl, rfl, rfl,
      rfl, rfl, rfl, rfl, rfl⟩

/-- Every step uses one named turn, and names none. -/
theorem turns_of_step {s t : State} (hs : step s = .next t) : t.turns = s.turns.tail := by
  rcases step_cases hs with ⟨-, rfl⟩ | ⟨-, -, rfl⟩ | ⟨-, c, -, hr⟩ | ⟨-, hn⟩ | ⟨-, rfl⟩ | ⟨m, u, -, -, hm, hu⟩
  · exact s.popTurn.generatorStep_turns
  · rfl
  · obtain ⟨-, -, -, -, -, -, -, -, hturns, -⟩ := sameOutside_of_runCommand hr
    exact hturns
  · obtain ⟨h', ms, hsnd, -⟩ := s.popTurn.hostNext_snd
    rw [hn] at hsnd
    exact congrArg State.turns hsnd
  · rfl
  · obtain ⟨-, -, hturns⟩ := State.takeMove_keeps_hostSide hm
    rcases hu with ⟨rest, -, -, rfl⟩ | ⟨-, rfl⟩ <;> exact hturns

theorem turns_of_run {n : Nat} {s t : State} (h : core.run n s = .next t) : t.turns = s.turns.drop n := by
  induction n generalizing s with
  | zero =>
    cases h
    rfl
  | succ n ih =>
    obtain ⟨u, hu, hrun⟩ := run_succ_next h
    rw [ih hrun, turns_of_step hu, List.drop_tail]

/-- Settles O57: each step uses a turn; with none named, the first agent of the default order that is enabled moves. -/
theorem agentsMakeProgress : Obligations.AgentsMakeProgress := by
  refine ⟨fun s t hrun => ?_, fun s hturns hready => ?_, fun s c hturns hready hc => ?_,
    fun s h hturns hready hc hheld => ?_⟩
  · rw [turns_of_run hrun, List.drop_length]
  · have hagent : s.agent = .generator := by simp [State.agent_of_no_turns hturns, hready]
    have hstep : step s = .next s.generatorStep := by
      rw [step, hagent, State.popTurn_of_no_turns hturns, State.takeTurn]
    exact ⟨_, hstep, by simp, by simp [hturns], by simp⟩
  · obtain ⟨t, ht, -, hbusy⟩ := runCommand_completed c s
    exact ⟨t, (step_completes_of_no_turns hturns hready hc).trans ht, ht, hbusy⟩
  · have hbusy : s.busy = false := by simp [State.busy, hc]
    have hagent : s.agent = .port := by simp [State.agent_of_no_turns hturns, hready, hbusy, hheld]
    have henabled : s.enabled h = true := State.enabled_of_portOpen (State.portOpen_eq_true.2 ⟨hbusy, hready⟩) h
    exact .inr ⟨hagent, by rw [State.popTurn_of_no_turns hturns, State.portNext_take hheld henabled]⟩

/-! Stops (log entry 10). -/

theorem exists_engineTurn (s : State) : ∃ t, s.engineTurn = .next t := by
  unfold State.engineTurn
  split
  · obtain ⟨t, h, -⟩ := runCommand_completed _ s
    exact ⟨t, h⟩
  · exact ⟨s, rfl⟩

/-- A step answers a next state, or is what a move of the host does with the parameters there are. -/
theorem step_next_or_takes (s : State) :
    (∃ t, step s = .next t) ∨ ∃ (m : HostMove) (u : State), s.HostTakes m ∧ u.cfg = s.cfg ∧ step s = u.takeMove m := by
  unfold step
  cases ha : s.agent with
  | generator => exact .inl ⟨_, rfl⟩
  | engine => exact .inl (exists_engineTurn _)
  | port =>
    obtain ⟨h, hsnd⟩ := s.popTurn.portNext_snd
    rcases moveTurn_cases s.popTurn.portNext with hn | ⟨m, hm, hn⟩
    · exact .inl ⟨_, hn⟩
    · exact .inr ⟨m, _, .inr ⟨ha, hm⟩, by rw [hsnd]; rfl, hn⟩
  | host =>
    obtain ⟨h, ms, hsnd, -⟩ := s.popTurn.hostNext_snd
    rcases moveTurn_cases s.popTurn.hostNext with hn | ⟨m, hm, hn⟩
    · exact .inl ⟨_, hn⟩
    · exact .inr ⟨m, _, .inl ⟨ha, hm⟩, by rw [hsnd]; rfl, hn⟩

/-- A step answers a next state, or the host's write outside BUF takes effect on it and is the fault. -/
theorem step_next_or_fault (s : State) : (∃ t, step s = .next t) ∨
    ∃ addr v, s.HostTakes (.writeBuf addr v) ∧ s.cfg.bufSize ≤ addr ∧ step s = .fault (.bufAddress addr) := by
  rcases step_next_or_takes s with h | ⟨m, u, ht, hcfg, hs⟩
  · exact .inl h
  · rw [hs, ← hcfg]
    rcases u.takeMove_next_or_fault m with h | ⟨addr, v, rfl, ha, h⟩
    · exact .inl h
    · exact .inr ⟨addr, v, ht, ha, h⟩

/-- Settles O59: a step that answers no next state is the host's write outside BUF. -/
theorem onlyBadWriteStops : Obligations.OnlyBadWriteStops := by
  intro s
  rcases step_next_or_fault s with ⟨t, h⟩ | ⟨addr, v, ht, ha, h⟩ <;> rw [h]
  · exact ⟨fun _ hf => (nomatch hf), fun _ hr => nomatch hr⟩
  · exact ⟨fun _ hf => ⟨addr, v, ht, ha, by cases hf; rfl⟩, fun _ hr => nomatch hr⟩

end Sys2Proof.Machine
